-- ==== Sys2Proof/Word.lean ====
section
/-! DEFINITION. The words of the unit: lanes, vectors, addresses, command words and register numbers
(00_scope.md rules R8, R9; 30_encoding.md rule R61). -/

namespace Sys2Proof

/-- A lane: 32 untyped bits (R9, R23). -/
abbrev Lane := BitVec 32

/-- The contents of a vector register: 256 bits, lane 0 the least significant (R9). -/
abbrev VReg := BitVec 256

/-- A command word `w` (R60). -/
abbrev CmdWord := BitVec 32

/-- A byte address, or the scalar operand `xs` (R6, R60). -/
abbrev Word64 := BitVec 64

/-- A byte of memory. -/
abbrev Byte := BitVec 8

/-- A register number, `V0` to `V15` (R21). -/
abbrev Reg := Fin 16

/-- A lane number, 0 to 7 (R9). -/
abbrev LaneIx := Fin 8

/-- The lane with every bit set (R8). -/
abbrev ones32 : Lane := 0xFFFFFFFF#32

/-- The lane with every bit clear (R8). -/
abbrev zero32 : Lane := 0x00000000#32

end Sys2Proof
end

