-- ==== Sys2Proof/Syntax.lean ====
section
/-! DEFINITION. The instructions: one constructor per mnemonic of spec/opcode_table.json (30_encoding.md
rules R62, R64; 44_compare.md rule R134). The constructor's arguments are the fields the row's format uses. -/

namespace Sys2Proof

/-- A decoded command word. The three rows `VCMP.INVALID_MODE` of the table are the one constructor
`vcmpInvalidMode` (log 15): together they are opcode `0x20`, `rc = 0` and `imm8` in 32..255 (R68, R136). -/
inductive Instr where
  /-- R88: lane-wise float add. -/
  | vfadd (rd ra rb : Reg)
  /-- R89: lane-wise float multiply. -/
  | vfmul (rd ra rb : Reg)
  /-- R90: fused `ra * rb + rc`. -/
  | vfmadd (rd ra rb rc : Reg)
  /-- R91: fused `ra * rb - rc`. -/
  | vfmsub (rd ra rb rc : Reg)
  /-- R100: lane-wise unsigned add modulo `2^32`. -/
  | vuadd (rd ra rb : Reg)
  /-- R101: masked accumulate `ra + (1 & ~rb)`. -/
  | vuacc (rd ra rb : Reg)
  /-- R110: bitwise OR. -/
  | vor (rd ra rb : Reg)
  /-- R111: bitwise `ra & ~rb`. -/
  | vandn (rd ra rb : Reg)
  /-- R112: bitwise AND. -/
  | vand (rd ra rb : Reg)
  /-- R113: all-zero test of `ra & rb`. -/
  | vtestz (ra rb : Reg)
  /-- R120: store the eight lanes. -/
  | vst (ra : Reg)
  /-- R121: write `xs[31:0]` to every lane. -/
  | vbcast (rd : Reg)
  /-- R122: replace one lane by `xs[31:0]`. -/
  | vins (rd : Reg) (lane : LaneIx)
  /-- Mode 0, `EQ_OQ`: base predicate P0 (R140). -/
  | vcmpEqOq (rd ra rb : Reg)
  /-- Mode 1, `LT_OS`: base predicate P1 (R141). -/
  | vcmpLtOs (rd ra rb : Reg)
  /-- Mode 2, `LE_OS`: base predicate P2 (R142). -/
  | vcmpLeOs (rd ra rb : Reg)
  /-- Mode 3, `UNORD_Q`: base predicate P3 (R143). -/
  | vcmpUnordQ (rd ra rb : Reg)
  /-- Mode 4, `NEQ_UQ`: base predicate P4 (R144). -/
  | vcmpNeqUq (rd ra rb : Reg)
  /-- Mode 5, `NLT_US`: base predicate P5 (R145). -/
  | vcmpNltUs (rd ra rb : Reg)
  /-- Mode 6, `NLE_US`: base predicate P6 (R146). -/
  | vcmpNleUs (rd ra rb : Reg)
  /-- Mode 7, `ORD_Q`: base predicate P7 (R147). -/
  | vcmpOrdQ (rd ra rb : Reg)
  /-- Mode 8, `EQ_UQ`: base predicate P8 (R148). -/
  | vcmpEqUq (rd ra rb : Reg)
  /-- Mode 9, `NGE_US`: base predicate P9 (R149). -/
  | vcmpNgeUs (rd ra rb : Reg)
  /-- Mode 10, `NGT_US`: base predicate P10 (R150). -/
  | vcmpNgtUs (rd ra rb : Reg)
  /-- Mode 11, `FALSE_OQ`: base predicate P11 (R151). -/
  | vcmpFalseOq (rd ra rb : Reg)
  /-- Mode 12, `NEQ_OQ`: base predicate P12 (R152). -/
  | vcmpNeqOq (rd ra rb : Reg)
  /-- Mode 13, `GE_OS`: base predicate P13 (R153). -/
  | vcmpGeOs (rd ra rb : Reg)
  /-- Mode 14, `GT_OS`: base predicate P14 (R154). -/
  | vcmpGtOs (rd ra rb : Reg)
  /-- Mode 15, `TRUE_UQ`: base predicate P15 (R155). -/
  | vcmpTrueUq (rd ra rb : Reg)
  /-- Mode 16, `EQ_OS`: base predicate P0 (R140). -/
  | vcmpEqOs (rd ra rb : Reg)
  /-- Mode 17, `LT_OQ`: base predicate P1 (R141). -/
  | vcmpLtOq (rd ra rb : Reg)
  /-- Mode 18, `LE_OQ`: base predicate P2 (R142). -/
  | vcmpLeOq (rd ra rb : Reg)
  /-- Mode 19, `UNORD_S`: base predicate P3 (R143). -/
  | vcmpUnordS (rd ra rb : Reg)
  /-- Mode 20, `NEQ_US`: base predicate P4 (R144). -/
  | vcmpNeqUs (rd ra rb : Reg)
  /-- Mode 21, `NLT_UQ`: base predicate P5 (R145). -/
  | vcmpNltUq (rd ra rb : Reg)
  /-- Mode 22, `NLE_UQ`: base predicate P6 (R146). -/
  | vcmpNleUq (rd ra rb : Reg)
  /-- Mode 23, `ORD_S`: base predicate P7 (R147). -/
  | vcmpOrdS (rd ra rb : Reg)
  /-- Mode 24, `EQ_US`: base predicate P8 (R148). -/
  | vcmpEqUs (rd ra rb : Reg)
  /-- Mode 25, `NGE_UQ`: base predicate P9 (R149). -/
  | vcmpNgeUq (rd ra rb : Reg)
  /-- Mode 26, `NGT_UQ`: base predicate P10 (R150). -/
  | vcmpNgtUq (rd ra rb : Reg)
  /-- Mode 27, `FALSE_OS`: base predicate P11 (R151). -/
  | vcmpFalseOs (rd ra rb : Reg)
  /-- Mode 28, `NEQ_OS`: base predicate P12 (R152). -/
  | vcmpNeqOs (rd ra rb : Reg)
  /-- Mode 29, `GE_OQ`: base predicate P13 (R153). -/
  | vcmpGeOq (rd ra rb : Reg)
  /-- Mode 30, `GT_OQ`: base predicate P14 (R154). -/
  | vcmpGtOq (rd ra rb : Reg)
  /-- Mode 31, `TRUE_US`: base predicate P15 (R155). -/
  | vcmpTrueUs (rd ra rb : Reg)
  /-- R136: `VCMP` with a mode value of 32..255. -/
  | vcmpInvalidMode (rd ra rb : Reg) (mode : BitVec 8)
  deriving DecidableEq, Repr

/-- The pseudo-command `VMOV Vd, Va` (R72). -/
def Instr.vmov (d a : Reg) : Instr := .vor d a a

/-- The pseudo-command `VZERO Vd` (R72). -/
def Instr.vzero (d : Reg) : Instr := .vcmpFalseOq d 0 0

/-- The pseudo-command `VONES Vd` (R72). -/
def Instr.vones (d : Reg) : Instr := .vcmpTrueUq d 0 0

/-- The pseudo-command `VNOP`, which overwrites `V15` with zero (R72). -/
def Instr.vnop : Instr := .vcmpFalseOq 15 0 0

end Sys2Proof
end

