-- ==== Sys2Proof/WellFormed.lean ====
section
/-! DEFINITION. Which terms of `Instr` some command word decodes to. Register and lane numbers are bounded
by their types, so one check is left: the mode value of `VCMP.INVALID_MODE` (30_encoding.md rule R65). -/

namespace Sys2Proof

/-- An invalid mode value is one of 32..255: the values 0..31 are the 32 modes (R65). -/
def Instr.wellFormed : Instr → Bool
  | .vcmpInvalidMode _ _ _ mode => decide (32 ≤ mode.toNat)
  | _ => true

end Sys2Proof
end

