-- ==== Sys2Proof/Decode.lean ====
section
/-! DEFINITION. The decoder of command words, total on all `2^32` words (30_encoding.md rule R70), the
encoder, and the opcode table as data (rules R61 to R68). -/

namespace Sys2Proof

/-- Why a word is illegal (R68): both reasons raise `ILLEGAL_COMMAND`. -/
inductive DecodeError where
  /-- The opcode is not one of the 14 of rule R64. -/
  | unknownOpcode
  /-- A field that the format marks 0 is not zero (R63). -/
  | reservedFieldNonzero
  deriving DecidableEq, Repr

/-- The fields of a command word (R61). -/
def opcodeField (w : CmdWord) : BitVec 8 := w.extractLsb' 24 8
def rdField (w : CmdWord) : BitVec 4 := w.extractLsb' 20 4
def raField (w : CmdWord) : BitVec 4 := w.extractLsb' 16 4
def rbField (w : CmdWord) : BitVec 4 := w.extractLsb' 12 4
def rcField (w : CmdWord) : BitVec 4 := w.extractLsb' 8 4
def imm8Field (w : CmdWord) : BitVec 8 := w.extractLsb' 0 8

/-- The register a 4-bit field numbers (R61). -/
def regOf (b : BitVec 4) : Reg := ⟨b.toNat, b.isLt⟩

/-- The `VCMP` command with the mode value `imm8` (R65, R134): a row of the mode table for 0..31, an
invalid mode above. -/
def vcmpOfMode (imm8 : BitVec 8) (rd ra rb : Reg) : Instr :=
  match imm8.toNat with
  | 0 => .vcmpEqOq rd ra rb
  | 1 => .vcmpLtOs rd ra rb
  | 2 => .vcmpLeOs rd ra rb
  | 3 => .vcmpUnordQ rd ra rb
  | 4 => .vcmpNeqUq rd ra rb
  | 5 => .vcmpNltUs rd ra rb
  | 6 => .vcmpNleUs rd ra rb
  | 7 => .vcmpOrdQ rd ra rb
  | 8 => .vcmpEqUq rd ra rb
  | 9 => .vcmpNgeUs rd ra rb
  | 10 => .vcmpNgtUs rd ra rb
  | 11 => .vcmpFalseOq rd ra rb
  | 12 => .vcmpNeqOq rd ra rb
  | 13 => .vcmpGeOs rd ra rb
  | 14 => .vcmpGtOs rd ra rb
  | 15 => .vcmpTrueUq rd ra rb
  | 16 => .vcmpEqOs rd ra rb
  | 17 => .vcmpLtOq rd ra rb
  | 18 => .vcmpLeOq rd ra rb
  | 19 => .vcmpUnordS rd ra rb
  | 20 => .vcmpNeqUs rd ra rb
  | 21 => .vcmpNltUq rd ra rb
  | 22 => .vcmpNleUq rd ra rb
  | 23 => .vcmpOrdS rd ra rb
  | 24 => .vcmpEqUs rd ra rb
  | 25 => .vcmpNgeUq rd ra rb
  | 26 => .vcmpNgtUq rd ra rb
  | 27 => .vcmpFalseOs rd ra rb
  | 28 => .vcmpNeqOs rd ra rb
  | 29 => .vcmpGeOq rd ra rb
  | 30 => .vcmpGtOq rd ra rb
  | 31 => .vcmpTrueUs rd ra rb
  | _ => .vcmpInvalidMode rd ra rb imm8

/-- A legal word if the reserved fields are zero, `i` then (R63). -/
def ifReservedZero (reservedZero : Bool) (i : Instr) : Except DecodeError Instr :=
  if reservedZero then .ok i else .error .reservedFieldNonzero

/-- The decode function of rule R70. -/
def decode (w : CmdWord) : Except DecodeError Instr :=
  let rd := regOf (rdField w)
  let ra := regOf (raField w)
  let rb := regOf (rbField w)
  let rc := regOf (rcField w)
  let imm8 := imm8Field w
  match (opcodeField w).toNat with
  | 0x01 => ifReservedZero (rc == 0 && imm8 == 0) (.vfadd rd ra rb)
  | 0x02 => ifReservedZero (rc == 0 && imm8 == 0) (.vfmul rd ra rb)
  | 0x03 => ifReservedZero (imm8 == 0) (.vfmadd rd ra rb rc)
  | 0x04 => ifReservedZero (imm8 == 0) (.vfmsub rd ra rb rc)
  | 0x08 => ifReservedZero (rc == 0 && imm8 == 0) (.vuadd rd ra rb)
  | 0x09 => ifReservedZero (rc == 0 && imm8 == 0) (.vuacc rd ra rb)
  | 0x10 => ifReservedZero (rc == 0 && imm8 == 0) (.vor rd ra rb)
  | 0x11 => ifReservedZero (rc == 0 && imm8 == 0) (.vandn rd ra rb)
  | 0x12 => ifReservedZero (rc == 0 && imm8 == 0) (.vand rd ra rb)
  | 0x13 => ifReservedZero (rd == 0 && rc == 0 && imm8 == 0) (.vtestz ra rb)
  | 0x18 => ifReservedZero (rd == 0 && rb == 0 && rc == 0 && imm8 == 0) (.vst ra)
  | 0x1C => ifReservedZero (ra == 0 && rb == 0 && rc == 0 && imm8 == 0) (.vbcast rd)
  | 0x1D => ifReservedZero (ra == 0 && rb == 0 && rc == 0 && imm8.extractLsb' 3 5 == 0)
      (.vins rd ⟨(imm8.extractLsb' 0 3).toNat, (imm8.extractLsb' 0 3).isLt⟩)
  | 0x20 => ifReservedZero (rc == 0) (vcmpOfMode imm8 rd ra rb)
  | _ => .error .unknownOpcode

/-- The instruction whose bits are `w`, as spec/opcode_table.json numbers them; every row has 32 bits. -/
def decodeTableWord (nbits w : Nat) : Option Instr :=
  match decode (BitVec.ofNat 32 (w % 2 ^ nbits)) with
  | .ok i => some i
  | .error _ => none

/-- The word with the given fields: `OO d a b c II` in hexadecimal (R61). -/
def packWord (opcode : BitVec 8) (rd ra rb rc : Reg) (imm8 : BitVec 8) : CmdWord :=
  opcode ++ BitVec.ofNat 4 rd ++ BitVec.ofNat 4 ra ++ BitVec.ofNat 4 rb ++ BitVec.ofNat 4 rc ++ imm8

/-- The one word of a well-formed instruction (R62, R63, R64). -/
def encode : Instr → CmdWord
  | .vfadd rd ra rb => packWord 0x01 rd ra rb 0 0
  | .vfmul rd ra rb => packWord 0x02 rd ra rb 0 0
  | .vfmadd rd ra rb rc => packWord 0x03 rd ra rb rc 0
  | .vfmsub rd ra rb rc => packWord 0x04 rd ra rb rc 0
  | .vuadd rd ra rb => packWord 0x08 rd ra rb 0 0
  | .vuacc rd ra rb => packWord 0x09 rd ra rb 0 0
  | .vor rd ra rb => packWord 0x10 rd ra rb 0 0
  | .vandn rd ra rb => packWord 0x11 rd ra rb 0 0
  | .vand rd ra rb => packWord 0x12 rd ra rb 0 0
  | .vtestz ra rb => packWord 0x13 0 ra rb 0 0
  | .vst ra => packWord 0x18 0 ra 0 0 0
  | .vbcast rd => packWord 0x1C rd 0 0 0 0
  | .vins rd lane => packWord 0x1D rd 0 0 0 (BitVec.ofNat 8 lane)
  | .vcmpEqOq rd ra rb => packWord 0x20 rd ra rb 0 0
  | .vcmpLtOs rd ra rb => packWord 0x20 rd ra rb 0 1
  | .vcmpLeOs rd ra rb => packWord 0x20 rd ra rb 0 2
  | .vcmpUnordQ rd ra rb => packWord 0x20 rd ra rb 0 3
  | .vcmpNeqUq rd ra rb => packWord 0x20 rd ra rb 0 4
  | .vcmpNltUs rd ra rb => packWord 0x20 rd ra rb 0 5
  | .vcmpNleUs rd ra rb => packWord 0x20 rd ra rb 0 6
  | .vcmpOrdQ rd ra rb => packWord 0x20 rd ra rb 0 7
  | .vcmpEqUq rd ra rb => packWord 0x20 rd ra rb 0 8
  | .vcmpNgeUs rd ra rb => packWord 0x20 rd ra rb 0 9
  | .vcmpNgtUs rd ra rb => packWord 0x20 rd ra rb 0 10
  | .vcmpFalseOq rd ra rb => packWord 0x20 rd ra rb 0 11
  | .vcmpNeqOq rd ra rb => packWord 0x20 rd ra rb 0 12
  | .vcmpGeOs rd ra rb => packWord 0x20 rd ra rb 0 13
  | .vcmpGtOs rd ra rb => packWord 0x20 rd ra rb 0 14
  | .vcmpTrueUq rd ra rb => packWord 0x20 rd ra rb 0 15
  | .vcmpEqOs rd ra rb => packWord 0x20 rd ra rb 0 16
  | .vcmpLtOq rd ra rb => packWord 0x20 rd ra rb 0 17
  | .vcmpLeOq rd ra rb => packWord 0x20 rd ra rb 0 18
  | .vcmpUnordS rd ra rb => packWord 0x20 rd ra rb 0 19
  | .vcmpNeqUs rd ra rb => packWord 0x20 rd ra rb 0 20
  | .vcmpNltUq rd ra rb => packWord 0x20 rd ra rb 0 21
  | .vcmpNleUq rd ra rb => packWord 0x20 rd ra rb 0 22
  | .vcmpOrdS rd ra rb => packWord 0x20 rd ra rb 0 23
  | .vcmpEqUs rd ra rb => packWord 0x20 rd ra rb 0 24
  | .vcmpNgeUq rd ra rb => packWord 0x20 rd ra rb 0 25
  | .vcmpNgtUq rd ra rb => packWord 0x20 rd ra rb 0 26
  | .vcmpFalseOs rd ra rb => packWord 0x20 rd ra rb 0 27
  | .vcmpNeqOs rd ra rb => packWord 0x20 rd ra rb 0 28
  | .vcmpGeOq rd ra rb => packWord 0x20 rd ra rb 0 29
  | .vcmpGtOq rd ra rb => packWord 0x20 rd ra rb 0 30
  | .vcmpTrueUs rd ra rb => packWord 0x20 rd ra rb 0 31
  | .vcmpInvalidMode rd ra rb mode => packWord 0x20 rd ra rb 0 mode

/-- A row of the opcode table: `w &&& mask = pattern` selects it (R62). -/
structure TableRow where
  mask : CmdWord
  pattern : CmdWord
  deriving DecidableEq, Repr

/-- The word is one of the row's (R62). -/
def TableRow.selects (row : TableRow) (w : CmdWord) : Bool := w &&& row.mask == row.pattern

/-- The 13 rows of the instructions other than `VCMP` (R64, R68). -/
def plainRows : List TableRow :=
  [⟨0xFF000FFF, 0x01000000⟩, ⟨0xFF000FFF, 0x02000000⟩, ⟨0xFF0000FF, 0x03000000⟩, ⟨0xFF0000FF, 0x04000000⟩,
   ⟨0xFF000FFF, 0x08000000⟩, ⟨0xFF000FFF, 0x09000000⟩, ⟨0xFF000FFF, 0x10000000⟩, ⟨0xFF000FFF, 0x11000000⟩,
   ⟨0xFF000FFF, 0x12000000⟩, ⟨0xFFF00FFF, 0x13000000⟩, ⟨0xFFF0FFFF, 0x18000000⟩, ⟨0xFF0FFFFF, 0x1C000000⟩,
   ⟨0xFF0FFFF8, 0x1D000000⟩]

/-- The row of `VCMP` with the mode `m` (R68). -/
def modeRow (m : Nat) : TableRow := ⟨0xFF000FFF, 0x20000000 + BitVec.ofNat 32 m⟩

/-- The three rows `VCMP.INVALID_MODE` (R68): `imm8` is `1xxxxxxx`, `01xxxxxx` or `001xxxxx`. -/
def invalidModeRows : List TableRow :=
  [⟨0xFF000F80, 0x20000080⟩, ⟨0xFF000FC0, 0x20000040⟩, ⟨0xFF000FE0, 0x20000020⟩]

/-- The opcode table of rule R68: 48 rows. -/
def tableRows : List TableRow := plainRows ++ (List.range 32).map modeRow ++ invalidModeRows

end Sys2Proof
end

