-- ==== Sys2Proof/Config.lean ====
section
/-! DEFINITION. What the spec leaves open: free values, each a constant without a body, so that no
proof can see what it is (00_scope.md rule R7; 93_implementation_defined.md U1, U2, U4). -/

namespace Sys2Proof

/-- The operation a NaN result belongs to: the names `ADD`, `MUL`, `FMA` of rules R85, R86, R87. -/
inductive FpOp where
  | add
  | mul
  | fma
  deriving DecidableEq, Repr

/-- Free value (log 6): the bits from which `NaNResult(op, a, b, c)` takes its sign and bits 21..0 (R82). -/
opaque Config.nanBits : FpOp → Lane → Lane → Lane → Lane

/-- Free value (log 7): for a draw number, which lane words a store that is not admitted has nevertheless
written, bit `i` for lane `i` (R49). -/
opaque Config.freeLaneMask : Nat → BitVec 8

/-- Free value (log 3): for a draw number and a register number, what the register holds after a reset
event (R190). -/
opaque Config.freeVector : Nat → Nat → VReg

end Sys2Proof
end

