-- ==== Sys2Proof/Machine/State.lean ====
section
/-! DEFINITION. The state of the unit, the host's side of its interface, and the state after reset
(10_state.md rules R20 to R35; 70_reset_and_hazards.md rule R190). -/

namespace Sys2Proof.Machine

/-- A command: the pair `(w, xs)` the host presents (R15). -/
structure Command where
  /-- the command word -/
  w : CmdWord
  /-- the scalar operand -/
  xs : Word64
  deriving DecidableEq, Repr

/-- What the host can do to the unit or to the memory between two responses (R20, R200). Its reads of status
outputs and of memory change nothing and are no actions. -/
inductive HostAction where
  /-- present a command (R15) -/
  | command (c : Command)
  /-- apply the reset event (R190) -/
  | reset
  /-- present a command and apply the reset event while it is in progress (R191, log 11) -/
  | resetDuring (c : Command)
  /-- write one byte of memory on an account other than the unit's: the host's (R52), or another unit's (R53) -/
  | memWrite (addr : Word64) (byte : Byte)
  deriving DecidableEq, Repr

/-- The status of a response (R15). -/
inductive Status where
  | ok
  | fault
  | refused
  deriving DecidableEq, Repr

/-- A response: the pair `(status, z)` (R15). -/
structure Response where
  status : Status
  z : Bool
  deriving DecidableEq, Repr

/-- The five fault causes (R171). Taking one is a NEXT state of the machine (R175), not a stop of the model. -/
inductive FaultCause where
  | illegalCommand
  | invalidMode
  | uninitRead
  | storeMisaligned
  | storeAccess
  deriving DecidableEq, Repr

/-- A range of addresses in which the unit may write words: `base ≤ a < base + size` (R45, log 5). -/
structure Region where
  base : Nat
  size : Nat
  deriving DecidableEq, Repr

/-- Memory: the bytes that something has written, by rising address; an unlisted byte has no known value
(R40, log 4). -/
abbrev Memory := List Host.Cell

/-- The status outputs (R31), which the host reads at any time without side effect. -/
structure StatusOutputs where
  z : Bool
  vv : BitVec 16
  faulted : Bool
  fcause : BitVec 4
  fcmd : BitVec 32
  fxs : BitVec 64
  deriving DecidableEq, Repr

/-- The state: every piece of rule R34, the memory, the platform's `Writable`, and the interface to the host. -/
structure State where
  /-- `V[0]`..`V[15]` (R21) -/
  v : Vector VReg 16
  /-- `VV`, bit `r` for register `r` (R28) -/
  vv : BitVec 16
  /-- `Z` (R27) -/
  z : Bool
  /-- `FAULTED` (R29) -/
  faulted : Bool
  /-- `FCAUSE` (R29) -/
  fcause : BitVec 4
  /-- `FCMD` (R30) -/
  fcmd : BitVec 32
  /-- `FXS` (R30) -/
  fxs : BitVec 64
  /-- the memory (R40) -/
  mem : Memory
  /-- the platform's parameter `Writable` (R45), which no step changes (log 5) -/
  writable : List Region
  /-- the command being processed (R35, log 16) -/
  cmd : Command
  /-- the host's actions not yet taken, oldest first (R26, log 1) -/
  inbox : List HostAction
  /-- the responses returned so far, oldest first (R201, log 18) -/
  responses : List Response
  /-- the model's own: how many free values have been drawn (log 17) -/
  draws : Nat
  deriving DecidableEq, Repr

/-- The model stops nowhere with a fault: every fault of the spec is a state the unit goes on from (R175, R176), so
this type has no constructor and nothing raises it (log 14, safe). -/
inductive Fault where
  deriving DecidableEq, Repr

/-- Why `exec` gives an instruction no meaning. -/
inductive Refusal where
  /-- Raised by an arm of `exec` whose instruction has no meaning yet, none now; safe: nothing can be proved of it. -/
  | notModelled (mnemonic : String)
  deriving DecidableEq, Repr

/-- The state right after the reset that follows power-up (R34, R190): `VV`, `Z` and the fault record are zero.
DESIGN CHOICE (log 2): the spec leaves `V` unspecified; the model names zero. DESIGN CHOICE (log 4): no byte of memory
is known. DESIGN CHOICE (log 5): the platform lets every word be written. The host has done nothing yet. -/
def State.reset : State where
  v := Vector.replicate 16 0
  vv := 0
  z := false
  faulted := false
  fcause := 0
  fcmd := 0
  fxs := 0
  mem := []
  writable := [⟨0, 2 ^ 64⟩]
  cmd := ⟨0, 0⟩
  inbox := []
  responses := []
  draws := 0

end Sys2Proof.Machine
end

