-- ==== Sys2Proof/Machine/Operands.lean ====
section
/-! DEFINITION. The operand forms: lanes of a vector register (00_scope.md rules R9, R13), the lane-wise
forms, and the scalar operand (30_encoding.md rule R67). -/

namespace Sys2Proof.Machine

/-- `lane(v, i) = v[32*i+31 : 32*i]` (R9). -/
def lane (v : VReg) (i : LaneIx) : Lane := v.extractLsb' (32 * i.val) 32

/-- `vec(l0, ..., l7)`: the vector whose lane `i` is `l i` (R9). -/
def vec (l : LaneIx → Lane) : VReg := l 7 ++ l 6 ++ l 5 ++ l 4 ++ l 3 ++ l 2 ++ l 1 ++ l 0

/-- The lane numbers in rising order. -/
def laneIxs : List LaneIx := [0, 1, 2, 3, 4, 5, 6, 7]

/-- Lane-wise over two sources (R13, R24). -/
def lanewise2 (f : Lane → Lane → Lane) (a b : VReg) : VReg := vec fun i => f (lane a i) (lane b i)

/-- Lane-wise over three sources (R13, R24). -/
def lanewise3 (f : Lane → Lane → Lane → Lane) (a b c : VReg) : VReg :=
  vec fun i => f (lane a i) (lane b i) (lane c i)

/-- Every lane the same value. -/
def broadcast (x : Lane) : VReg := vec fun _ => x

/-- One lane replaced, the other seven kept (R122). -/
def insertLane (old : VReg) (k : LaneIx) (x : Lane) : VReg := vec fun i => if i = k then x else lane old i

/-- The scalar operand as a byte address: all 64 bits (R67). -/
def storeAddress (s : State) : Word64 := s.cmd.xs

/-- The scalar operand as lane data: `xs[31:0]`, `xs[63:32]` ignored (R67). -/
def laneData (s : State) : Lane := s.cmd.xs.extractLsb' 0 32

end Sys2Proof.Machine
end

