-- ==== Sys2Proof/Machine/Memory.lean ====
section
/-! DEFINITION. Memory as the unit and the host see it (20_memory.md rules R40 to R45). -/

namespace Sys2Proof.Machine

/-- The canonical form: addresses strictly rising and inside the `2^64` bytes of rule R40. -/
abbrev Memory.wf (m : Memory) : Prop := m.Pairwise (fun p q => p.1 < q.1) ∧ ∀ p ∈ m, p.1 < 2 ^ 64

/-- The byte at `x`, none if nothing has written it (log 4). -/
def Memory.read : Memory → Nat → Option Byte
  | [], _ => none
  | (a, b) :: m, x => if a = x then some b else Memory.read m x

/-- Replace the byte at `x`. -/
def Memory.write : Memory → Nat → Byte → Memory
  | [], x, v => [(x, v)]
  | (a, b) :: m, x, v =>
    if x < a then (x, v) :: (a, b) :: m
    else if x = a then (a, v) :: m
    else (a, b) :: Memory.write m x v

/-- Write bytes at `x`, `x + 1`, ... -/
def Memory.writeBytes : Memory → Nat → List Byte → Memory
  | m, _, [] => m
  | m, x, v :: vs => Memory.writeBytes (m.write x v) (x + 1) vs

/-- The bytes of a lane word, least significant first: the unit is little-endian (R41). -/
def bytesLE (v : Lane) : List Byte :=
  [v.extractLsb' 0 8, v.extractLsb' 8 8, v.extractLsb' 16 8, v.extractLsb' 24 8]

/-- `MemWrite(addr, 4, v)` (R14, R41). -/
def Memory.writeLane (m : Memory) (addr : Nat) (v : Lane) : Memory := m.writeBytes addr (bytesLE v)

/-- The lane-word writes of one store (R42), in the given order (R47), of the lanes `sel` picks. -/
def Memory.storeLanes (m : Memory) (addr : Nat) (v : VReg) (sel : LaneIx → Bool) (order : List LaneIx) : Memory :=
  order.foldl (fun m i => if sel i then m.writeLane (addr + 4 * i.val) (lane v i) else m) m

/-- `Writable(a)` (R45). -/
def State.writableAt (s : State) (a : Nat) : Bool :=
  s.writable.any fun g => decide (g.base ≤ a) && decide (a < g.base + g.size)

/-- A store to `a` is admitted: all eight lane words are writable (R45). -/
def State.admits (s : State) (a : Nat) : Bool := laneIxs.all fun i => s.writableAt (a + 4 * i.val)

end Sys2Proof.Machine
end

