-- ==== Sys2Proof/Machine/Ops.lean ====
section
/-! DEFINITION. The named operations on the state: register access, responses, taking a fault, the refusal of a
faulted unit, the reset event, and the common step of every command (00_scope.md rule R13; 10_state.md rule R36;
60_exceptions.md rules R174 to R177; 70_reset_and_hazards.md rule R190). -/

namespace Sys2Proof.Machine

/-- `VV[r]` (R28). -/
def State.valid (s : State) (r : Reg) : Bool := s.vv.getLsbD r.val

/-- `V[r]` (R13). -/
def State.readV (s : State) (r : Reg) : VReg := s.v.get r

/-- `V[r] <- x`, which also sets `VV[r] <- 1` (R13, R28). -/
def State.writeV (s : State) (r : Reg) (x : VReg) : State :=
  { s with v := s.v.set r.val x r.isLt, vv := s.vv ||| (1#16 <<< r.val) }

/-- The status outputs (R31). -/
def State.statusOutputs (s : State) : StatusOutputs := ⟨s.z, s.vv, s.faulted, s.fcause, s.fcmd, s.fxs⟩

/-- Return the response `(status, z)` (R15). -/
def State.respond (s : State) (status : Status) (z : Bool) : State :=
  { s with responses := s.responses ++ [⟨status, z⟩] }

/-- The fault codes (R171). -/
def FaultCause.code : FaultCause → BitVec 4
  | .illegalCommand => 1
  | .invalidMode => 2
  | .uninitRead => 3
  | .storeMisaligned => 4
  | .storeAccess => 5

/-- Fault entry, `raise F(w, xs)`, for the command being processed, and the response `(FAULT, 0)` (R175; decision D6 has
the current `Z` in every response, UNVERIFIED, log 10). There is no return from a fault (R177): the way out is
`State.resetEvent`. -/
def State.raise (s : State) (f : FaultCause) : State :=
  { s with faulted := true, fcause := f.code, fcmd := s.cmd.w, fxs := s.cmd.xs }.respond .fault false

/-- The answer of a faulted unit: `(REFUSED, 0)` and nothing else (R176; against decision D6, UNVERIFIED, log 10). -/
def State.refuse (s : State) : State := s.respond .refused false

/-- The end of every command that runs: response `(OK, z)` with `z` the current `Z` (decision D6, 95_test_vectors.md;
R36 step 6 and R48 have 0 for a command other than `VTESTZ`; UNVERIFIED, log 10). -/
def State.finishOk (s : State) : State := s.respond .ok s.z

/-- The end of a command that writes a register: `V[rd] <- x`, response `(OK, Z)`. -/
def State.finishWrite (s : State) (rd : Reg) (x : VReg) : State := (s.writeV rd x).finishOk

/-- The end of the all-zero test: `Z <- t`, response `(OK, t)` (R113). -/
def State.finishTest (s : State) (t : Bool) : State := { s with z := t }.finishOk

/-- The host presents a command (R35). -/
def State.present (s : State) (c : Command) : State := { s with cmd := c }

/-- The reset event (R190): the valid bits, the flag and the fault record are cleared; the vector registers hold
unspecified values, here free values of a new draw (log 3); memory is untouched. -/
def State.resetEvent (s : State) : State :=
  let d := Config.freeVector s.draws
  { s with
    v := #v[d 0, d 1, d 2, d 3, d 4, d 5, d 6, d 7, d 8, d 9, d 10, d 11, d 12, d 13, d 14, d 15]
    vv := 0, z := false, faulted := false, fcause := 0, fcmd := 0, fxs := 0, draws := s.draws + 1 }

/-- A byte written by the host or by another unit (R52, R53). -/
def State.hostWrite (s : State) (addr : Word64) (byte : Byte) : State :=
  { s with mem := s.mem.write addr.toNat byte }

/-- The next action of the host, taken off the inbox (R26, log 1). -/
def State.takeAction (s : State) : Option (HostAction × State) :=
  match s.inbox with
  | [] => none
  | a :: rest => some (a, { s with inbox := rest })

/-- The common step of a decoded command (R36): refused while faulted (step 1), then `UNINIT_READ` if a source register
was never written (step 4), then `execute`, which also answers (steps 5 and 6). -/
def commonStep (sources : List Reg) (execute : State → State) (s : State) : Host.Outcome State Fault Refusal :=
  if s.faulted then .next s.refuse
  else if sources.all s.valid then .next (execute s)
  else .next (s.raise .uninitRead)

end Sys2Proof.Machine
end

