-- ==== Sys2Proof/Machine/Accumulate.lean ====
section
/-! DEFINITION. The vector_accumulator: `VUADD`, `VUACC` (41_accumulate.md rules R100, R101). -/

namespace Sys2Proof.Machine

/-- Unsigned add modulo `2^32` (R100). -/
def uaddLane (a b : Lane) : Lane := a + b

/-- Masked accumulate: add 1 where bit 0 of the mask lane is clear (R101). -/
def uaccLane (count mask : Lane) : Lane := count + (1#32 &&& ~~~mask)

/-- `VUADD Vd, Va, Vb` (R100). -/
def execVuadd (rd ra rb : Reg) (s : State) : Host.Outcome State Fault Refusal :=
  commonStep [ra, rb] (fun s => s.finishWrite rd (lanewise2 uaddLane (s.readV ra) (s.readV rb))) s

/-- `VUACC Vd, Va, Vb` (R101). -/
def execVuacc (rd ra rb : Reg) (s : State) : Host.Outcome State Fault Refusal :=
  commonStep [ra, rb] (fun s => s.finishWrite rd (lanewise2 uaccLane (s.readV ra) (s.readV rb))) s

end Sys2Proof.Machine
end

