-- ==== Sys2Proof/Machine/Binary32.lean ====
section
/-! DEFINITION. The binary32 format, its exact values, rounding and NaN results (00_scope.md rules R10 to R12;
40_fp_arithmetic.md rules R80 to R83). An exact rational of the spec is a natural number or integer over a power of
two: values in units of `2^-149`, products in units of `2^-298` (log 13). -/

namespace Sys2Proof.Machine

/-- `sign(x) = x[31]` (R10). -/
def signBit (x : Lane) : Bool := x.getLsbD 31

/-- `expf(x) = x[30:23]` (R10). -/
def expField (x : Lane) : BitVec 8 := x.extractLsb' 23 8

/-- `frac(x) = x[22:0]` (R10). -/
def fracField (x : Lane) : BitVec 23 := x.extractLsb' 0 23

/-- The classes of rule R10. -/
def isNaN (x : Lane) : Bool := expField x == 0xFF#8 && fracField x != 0#23
def isInf (x : Lane) : Bool := expField x == 0xFF#8 && fracField x == 0#23
def isZero (x : Lane) : Bool := expField x == 0#8 && fracField x == 0#23
def isSubnormal (x : Lane) : Bool := expField x == 0#8 && fracField x != 0#23
def isFinite (x : Lane) : Bool := expField x != 0xFF#8
def isQNaN (x : Lane) : Bool := isNaN x && x.getLsbD 22
def isSNaN (x : Lane) : Bool := isNaN x && !x.getLsbD 22

/-- The bit pattern of the given fields (R10). -/
def packFloat (s : Bool) (e : BitVec 8) (f : BitVec 23) : Lane := BitVec.ofBool s ++ e ++ f

/-- The infinity of sign `s`. -/
def infinity (s : Bool) : Lane := packFloat s 0xFF 0

/-- The zero of sign `s`. -/
def zeroOf (s : Bool) : Lane := packFloat s 0 0

/-- `neg(x)`: bit 31 inverted (R10). -/
def negFloat (x : Lane) : Lane := x ^^^ 0x80000000#32

/-- `mag(x)` of rule R11, in units of `2^-149`. -/
def magUnits (x : Lane) : Nat :=
  if expField x = 0#8 then (fracField x).toNat
  else (2 ^ 23 + (fracField x).toNat) * 2 ^ ((expField x).toNat - 1)

/-- `val(x)` of rule R11, in units of `2^-149`. -/
def valUnits (x : Lane) : Int := if signBit x then -(magUnits x : Int) else magUnits x

/-- `round32(s, n / 2^k)` of rule R12: `e`, `E`, `m = num / 2^down`, `n = q`, `r = rem / 2^down` as there. -/
def round32 (s : Bool) (n k : Nat) : Lane :=
  if n = 0 then zeroOf s
  else
    let bigE : Int := max ((n.log2 : Int) - k) (-126)
    let num := n * 2 ^ (23 - bigE - k).toNat
    let den := 2 ^ (bigE + k - 23).toNat
    let q := num / den
    let rem := num % den
    let rounded := if den < 2 * rem ∨ (2 * rem = den ∧ q % 2 = 1) then q + 1 else q
    let q' := if rounded = 2 ^ 24 then 2 ^ 23 else rounded
    let bigE' := if rounded = 2 ^ 24 then bigE + 1 else bigE
    if 127 < bigE' then infinity s
    else if q' < 2 ^ 23 then packFloat s 0 (BitVec.ofNat 23 q')
    else packFloat s (BitVec.ofNat 8 (bigE' + 127).toNat) (BitVec.ofNat 23 (q' - 2 ^ 23))

/-- `NaNResult(op, a, b, c)` (R82): some quiet NaN; its sign and bits 21..0 are free values (log 6). -/
def nanResult (op : FpOp) (a b c : Lane) : Lane := Config.nanBits op a b c ||| 0x7FC00000#32

end Sys2Proof.Machine
end

