-- ==== Sys2Proof/Machine/Flags.lean ====
section
/-! DEFINITION. The conditions the unit computes: the value of the flag `Z` (42_bitwise.md rule R113), the relations on
two lanes (44_compare.md rules R131, R132), the 16 base predicates (rules R140 to R155) and the mask (rule R133). -/

namespace Sys2Proof.Machine

/-- The all-zero test of all 256 bits (R113). -/
def testZ (a b : VReg) : Bool := a &&& b == 0#256

/-- `nan(a, b)` (R131). -/
def nanPair (a b : Lane) : Bool := isNaN a || isNaN b

/-- The values `ext(x)` ranges over (R11): the infinities and the finite values, in units of `2^-149`. -/
inductive ExtValue where
  | negInf
  | finite (units : Int)
  | posInf
  deriving DecidableEq, Repr

/-- `ext(x)` of a lane that is not a NaN (R11). -/
def extValue (x : Lane) : ExtValue :=
  if isInf x then (if signBit x then .negInf else .posInf) else .finite (valUnits x)

/-- The order of rule R11: `-inf` below and `+inf` above every finite value. -/
def ExtValue.lt : ExtValue → ExtValue → Bool
  | .negInf, .negInf => false
  | .negInf, .finite _ => true
  | .negInf, .posInf => true
  | .finite _, .negInf => false
  | .finite x, .finite y => decide (x < y)
  | .finite _, .posInf => true
  | .posInf, _ => false

/-- The five relations (R132), all false on an unordered pair. -/
def relEq (a b : Lane) : Bool := !nanPair a b && extValue a == extValue b
def relLt (a b : Lane) : Bool := !nanPair a b && (extValue a).lt (extValue b)
def relLe (a b : Lane) : Bool := !nanPair a b && ((extValue a).lt (extValue b) || extValue a == extValue b)
def relGt (a b : Lane) : Bool := !nanPair a b && (extValue b).lt (extValue a)
def relGe (a b : Lane) : Bool := !nanPair a b && ((extValue b).lt (extValue a) || extValue a == extValue b)

/-- The 16 base predicates (R140 to R155). -/
def p0 (a b : Lane) : Bool := relEq a b && !nanPair a b
def p1 (a b : Lane) : Bool := relLt a b && !nanPair a b
def p2 (a b : Lane) : Bool := relLe a b && !nanPair a b
def p3 (a b : Lane) : Bool := nanPair a b
def p4 (a b : Lane) : Bool := !relEq a b || nanPair a b
def p5 (a b : Lane) : Bool := !relLt a b || nanPair a b
def p6 (a b : Lane) : Bool := !relLe a b || nanPair a b
def p7 (a b : Lane) : Bool := !nanPair a b
def p8 (a b : Lane) : Bool := relEq a b || nanPair a b
def p9 (a b : Lane) : Bool := !relGe a b || nanPair a b
def p10 (a b : Lane) : Bool := !relGt a b || nanPair a b
def p11 (_ _ : Lane) : Bool := false
def p12 (a b : Lane) : Bool := !relEq a b && !nanPair a b
def p13 (a b : Lane) : Bool := relGe a b && !nanPair a b
def p14 (a b : Lane) : Bool := relGt a b && !nanPair a b
def p15 (_ _ : Lane) : Bool := true

/-- The mask lane of a condition (R133). -/
def maskLane (b : Bool) : Lane := if b then ones32 else zero32

end Sys2Proof.Machine
end

