-- ==== Sys2Proof/Machine/Bitwise.lean ====
section
/-! DEFINITION. The vector_bitwise_logic: `VOR`, `VANDN`, `VAND`, `VTESTZ` (42_bitwise.md rules R110 to R113). -/

namespace Sys2Proof.Machine

/-- Bitwise OR (R110). -/
def orLane (a b : Lane) : Lane := a ||| b

/-- Bitwise AND-NOT: the SECOND operand is the one complemented (R111, C2). -/
def andnLane (a b : Lane) : Lane := a &&& ~~~b

/-- Bitwise AND (R112). -/
def andLane (a b : Lane) : Lane := a &&& b

/-- `VOR Vd, Va, Vb` (R110). -/
def execVor (rd ra rb : Reg) (s : State) : Host.Outcome State Fault Refusal :=
  commonStep [ra, rb] (fun s => s.finishWrite rd (lanewise2 orLane (s.readV ra) (s.readV rb))) s

/-- `VANDN Vd, Va, Vb` (R111). -/
def execVandn (rd ra rb : Reg) (s : State) : Host.Outcome State Fault Refusal :=
  commonStep [ra, rb] (fun s => s.finishWrite rd (lanewise2 andnLane (s.readV ra) (s.readV rb))) s

/-- `VAND Vd, Va, Vb` (R112). -/
def execVand (rd ra rb : Reg) (s : State) : Host.Outcome State Fault Refusal :=
  commonStep [ra, rb] (fun s => s.finishWrite rd (lanewise2 andLane (s.readV ra) (s.readV rb))) s

/-- `VTESTZ Va, Vb` (R113). -/
def execVtestz (ra rb : Reg) (s : State) : Host.Outcome State Fault Refusal :=
  commonStep [ra, rb] (fun s => s.finishTest (testZ (s.readV ra) (s.readV rb))) s

end Sys2Proof.Machine
end

