-- ==== Sys2Proof/Machine/Compare.lean ====
section
/-! DEFINITION. The fp_comparator: `VCMP` in its 32 modes and with an invalid mode value (44_compare.md rules R130 to
R137, R140 to R155). Modes `m` and `m + 16` have the same base predicate (R134, R135). -/

namespace Sys2Proof.Machine

/-- `VCMP` in a mode that reads its operands, with the mode's base predicate (R130). -/
def compareLanes (p : Lane → Lane → Bool) (rd ra rb : Reg) (s : State) : Host.Outcome State Fault Refusal :=
  commonStep [ra, rb]
    (fun s => s.finishWrite rd (lanewise2 (fun a b => maskLane (p a b)) (s.readV ra) (s.readV rb))) s

/-- `VCMP` in a constant mode: no source register is read and no valid bit consulted (R137). -/
def compareConstant (b : Bool) (rd : Reg) (s : State) : Host.Outcome State Fault Refusal :=
  commonStep [] (fun s => s.finishWrite rd (broadcast (maskLane b))) s

/-- Mode 0, `EQ_OQ` (R140). -/
def execVcmpEqOq (rd ra rb : Reg) (s : State) : Host.Outcome State Fault Refusal := compareLanes p0 rd ra rb s

/-- Mode 1, `LT_OS` (R141). -/
def execVcmpLtOs (rd ra rb : Reg) (s : State) : Host.Outcome State Fault Refusal := compareLanes p1 rd ra rb s

/-- Mode 2, `LE_OS` (R142). -/
def execVcmpLeOs (rd ra rb : Reg) (s : State) : Host.Outcome State Fault Refusal := compareLanes p2 rd ra rb s

/-- Mode 3, `UNORD_Q` (R143). -/
def execVcmpUnordQ (rd ra rb : Reg) (s : State) : Host.Outcome State Fault Refusal := compareLanes p3 rd ra rb s

/-- Mode 4, `NEQ_UQ` (R144). -/
def execVcmpNeqUq (rd ra rb : Reg) (s : State) : Host.Outcome State Fault Refusal := compareLanes p4 rd ra rb s

/-- Mode 5, `NLT_US` (R145). -/
def execVcmpNltUs (rd ra rb : Reg) (s : State) : Host.Outcome State Fault Refusal := compareLanes p5 rd ra rb s

/-- Mode 6, `NLE_US` (R146). -/
def execVcmpNleUs (rd ra rb : Reg) (s : State) : Host.Outcome State Fault Refusal := compareLanes p6 rd ra rb s

/-- Mode 7, `ORD_Q` (R147). -/
def execVcmpOrdQ (rd ra rb : Reg) (s : State) : Host.Outcome State Fault Refusal := compareLanes p7 rd ra rb s

/-- Mode 8, `EQ_UQ` (R148). -/
def execVcmpEqUq (rd ra rb : Reg) (s : State) : Host.Outcome State Fault Refusal := compareLanes p8 rd ra rb s

/-- Mode 9, `NGE_US` (R149). -/
def execVcmpNgeUs (rd ra rb : Reg) (s : State) : Host.Outcome State Fault Refusal := compareLanes p9 rd ra rb s

/-- Mode 10, `NGT_US` (R150). -/
def execVcmpNgtUs (rd ra rb : Reg) (s : State) : Host.Outcome State Fault Refusal := compareLanes p10 rd ra rb s

/-- Mode 11, `FALSE_OQ` (R151, R137). -/
def execVcmpFalseOq (rd _ra _rb : Reg) (s : State) : Host.Outcome State Fault Refusal := compareConstant false rd s

/-- Mode 12, `NEQ_OQ` (R152). -/
def execVcmpNeqOq (rd ra rb : Reg) (s : State) : Host.Outcome State Fault Refusal := compareLanes p12 rd ra rb s

/-- Mode 13, `GE_OS` (R153). -/
def execVcmpGeOs (rd ra rb : Reg) (s : State) : Host.Outcome State Fault Refusal := compareLanes p13 rd ra rb s

/-- Mode 14, `GT_OS` (R154). -/
def execVcmpGtOs (rd ra rb : Reg) (s : State) : Host.Outcome State Fault Refusal := compareLanes p14 rd ra rb s

/-- Mode 15, `TRUE_UQ` (R155, R137). -/
def execVcmpTrueUq (rd _ra _rb : Reg) (s : State) : Host.Outcome State Fault Refusal := compareConstant true rd s

/-- Mode 16, `EQ_OS` (R140). -/
def execVcmpEqOs (rd ra rb : Reg) (s : State) : Host.Outcome State Fault Refusal := compareLanes p0 rd ra rb s

/-- Mode 17, `LT_OQ` (R141). -/
def execVcmpLtOq (rd ra rb : Reg) (s : State) : Host.Outcome State Fault Refusal := compareLanes p1 rd ra rb s

/-- Mode 18, `LE_OQ` (R142). -/
def execVcmpLeOq (rd ra rb : Reg) (s : State) : Host.Outcome State Fault Refusal := compareLanes p2 rd ra rb s

/-- Mode 19, `UNORD_S` (R143). -/
def execVcmpUnordS (rd ra rb : Reg) (s : State) : Host.Outcome State Fault Refusal := compareLanes p3 rd ra rb s

/-- Mode 20, `NEQ_US` (R144). -/
def execVcmpNeqUs (rd ra rb : Reg) (s : State) : Host.Outcome State Fault Refusal := compareLanes p4 rd ra rb s

/-- Mode 21, `NLT_UQ` (R145). -/
def execVcmpNltUq (rd ra rb : Reg) (s : State) : Host.Outcome State Fault Refusal := compareLanes p5 rd ra rb s

/-- Mode 22, `NLE_UQ` (R146). -/
def execVcmpNleUq (rd ra rb : Reg) (s : State) : Host.Outcome State Fault Refusal := compareLanes p6 rd ra rb s

/-- Mode 23, `ORD_S` (R147). -/
def execVcmpOrdS (rd ra rb : Reg) (s : State) : Host.Outcome State Fault Refusal := compareLanes p7 rd ra rb s

/-- Mode 24, `EQ_US` (R148). -/
def execVcmpEqUs (rd ra rb : Reg) (s : State) : Host.Outcome State Fault Refusal := compareLanes p8 rd ra rb s

/-- Mode 25, `NGE_UQ` (R149). -/
def execVcmpNgeUq (rd ra rb : Reg) (s : State) : Host.Outcome State Fault Refusal := compareLanes p9 rd ra rb s

/-- Mode 26, `NGT_UQ` (R150). -/
def execVcmpNgtUq (rd ra rb : Reg) (s : State) : Host.Outcome State Fault Refusal := compareLanes p10 rd ra rb s

/-- Mode 27, `FALSE_OS` (R151, R137). -/
def execVcmpFalseOs (rd _ra _rb : Reg) (s : State) : Host.Outcome State Fault Refusal := compareConstant false rd s

/-- Mode 28, `NEQ_OS` (R152). -/
def execVcmpNeqOs (rd ra rb : Reg) (s : State) : Host.Outcome State Fault Refusal := compareLanes p12 rd ra rb s

/-- Mode 29, `GE_OQ` (R153). -/
def execVcmpGeOq (rd ra rb : Reg) (s : State) : Host.Outcome State Fault Refusal := compareLanes p13 rd ra rb s

/-- Mode 30, `GT_OQ` (R154). -/
def execVcmpGtOq (rd ra rb : Reg) (s : State) : Host.Outcome State Fault Refusal := compareLanes p14 rd ra rb s

/-- Mode 31, `TRUE_US` (R155, R137). -/
def execVcmpTrueUs (rd _ra _rb : Reg) (s : State) : Host.Outcome State Fault Refusal := compareConstant true rd s

/-- `VCMP` with a mode value of 32..255 raises `INVALID_MODE`; no valid bit is consulted (R136, R36 step 3). -/
def execVcmpInvalidMode (_rd _ra _rb : Reg) (_mode : BitVec 8) (s : State) : Host.Outcome State Fault Refusal :=
  commonStep [] (fun s => s.raise .invalidMode) s

end Sys2Proof.Machine
end

