-- ==== Sys2Proof/Machine/FpArithmetic.lean ====
section
/-! DEFINITION. The fp_arithmetic_unit: `VFADD`, `VFMUL`, `VFMADD`, `VFMSUB` (40_fp_arithmetic.md rules R85 to R91). -/

namespace Sys2Proof.Machine

/-- Scalar add (R85). -/
def fadd32 (a b : Lane) : Lane :=
  if isNaN a || isNaN b then nanResult .add a b 0
  else if isInf a && isInf b then
    if signBit a = signBit b then a else nanResult .add a b 0
  else if isInf a then a
  else if isInf b then b
  else
    let q := valUnits a + valUnits b
    if q = 0 then
      if isZero a && isZero b then zeroOf (signBit a && signBit b) else zeroOf false
    else round32 (decide (q < 0)) q.natAbs 149

/-- Scalar multiply (R86). -/
def fmul32 (a b : Lane) : Lane :=
  if isNaN a || isNaN b then nanResult .mul a b 0
  else
    let s := signBit a ^^ signBit b
    if (isInf a && isZero b) || (isZero a && isInf b) then nanResult .mul a b 0
    else if isInf a || isInf b then infinity s
    else round32 s (valUnits a * valUnits b).natAbs 298

/-- Scalar fused multiply-add, `a * b + c` rounded once (R87). -/
def fma32 (a b c : Lane) : Lane :=
  if isNaN a || isNaN b || isNaN c then nanResult .fma a b c
  else
    let sp := signBit a ^^ signBit b
    if (isInf a && isZero b) || (isZero a && isInf b) then nanResult .fma a b c
    else if isInf a || isInf b then
      if isInf c && signBit c != sp then nanResult .fma a b c else infinity sp
    else if isInf c then c
    else
      let p := valUnits a * valUnits b
      let q := p + valUnits c * 2 ^ 149
      if q = 0 then
        if p = 0 ∧ isZero c then (if sp = signBit c then zeroOf sp else zeroOf false) else zeroOf false
      else round32 (decide (q < 0)) q.natAbs 298

/-- Scalar fused multiply-subtract, `a * b - c` rounded once (R91). -/
def fms32 (a b c : Lane) : Lane := fma32 a b (negFloat c)

/-- `VFADD Vd, Va, Vb` (R88). -/
def execVfadd (rd ra rb : Reg) (s : State) : Host.Outcome State Fault Refusal :=
  commonStep [ra, rb] (fun s => s.finishWrite rd (lanewise2 fadd32 (s.readV ra) (s.readV rb))) s

/-- `VFMUL Vd, Va, Vb` (R89). -/
def execVfmul (rd ra rb : Reg) (s : State) : Host.Outcome State Fault Refusal :=
  commonStep [ra, rb] (fun s => s.finishWrite rd (lanewise2 fmul32 (s.readV ra) (s.readV rb))) s

/-- `VFMADD Vd, Va, Vb, Vc` (R90). -/
def execVfmadd (rd ra rb rc : Reg) (s : State) : Host.Outcome State Fault Refusal :=
  commonStep [ra, rb, rc]
    (fun s => s.finishWrite rd (lanewise3 fma32 (s.readV ra) (s.readV rb) (s.readV rc))) s

/-- `VFMSUB Vd, Va, Vb, Vc` (R91). -/
def execVfmsub (rd ra rb rc : Reg) (s : State) : Host.Outcome State Fault Refusal :=
  commonStep [ra, rb, rc]
    (fun s => s.finishWrite rd (lanewise3 fms32 (s.readV ra) (s.readV rb) (s.readV rc))) s

end Sys2Proof.Machine
end

