-- ==== Sys2Proof/Machine/StoreMove.lean ====
section
/-! DEFINITION. Store and data movement: `VST`, `VBCAST`, `VINS` (43_store_move.md rules R120 to R122; 20_memory.md
rules R43 to R49). -/

namespace Sys2Proof.Machine

/-- The lane words a store that is not admitted writes: any of the writable ones, which is open (R49, log 7). -/
def partialSelection (s : State) (a : Nat) (i : LaneIx) : Bool :=
  s.writableAt (a + 4 * i.val) && (Config.freeLaneMask s.draws).getLsbD i.val

/-- The `execute` part of `VST` (R120): the address checks in the order of rule R174, then the eight lane words. The
order of the writes is not observable in one atomic step (R47, log 8). -/
def storeVector (ra : Reg) (s : State) : State :=
  let a := storeAddress s
  if a.extractLsb' 0 2 ≠ 0#2 then s.raise .storeMisaligned
  else if 2 ^ 64 - 32 < a.toNat then s.raise .storeAccess
  else if s.admits a.toNat then
    { s with mem := s.mem.storeLanes a.toNat (s.readV ra) (fun _ => true) laneIxs }.finishOk
  else
    { s with
      mem := s.mem.storeLanes a.toNat (s.readV ra) (partialSelection s a.toNat) laneIxs
      draws := s.draws + 1 }.raise .storeAccess

/-- Memory after a `VST` that a reset event interrupted (R191): if the store had got past its checks, any of its writable
lane words may have been written, which is open (log 11). -/
def interruptedStore (ra : Reg) (s : State) : Memory :=
  let a := storeAddress s
  if s.faulted = false ∧ s.valid ra = true ∧ a.extractLsb' 0 2 = 0#2 ∧ a.toNat ≤ 2 ^ 64 - 32 then
    s.mem.storeLanes a.toNat (s.readV ra) (partialSelection s a.toNat) laneIxs
  else s.mem

/-- `VST Va, xs=<address>` (R120). -/
def execVst (ra : Reg) (s : State) : Host.Outcome State Fault Refusal :=
  commonStep [ra] (storeVector ra) s

/-- `VBCAST Vd, xs=<value32>` (R121). -/
def execVbcast (rd : Reg) (s : State) : Host.Outcome State Fault Refusal :=
  commonStep [] (fun s => s.finishWrite rd (broadcast (laneData s))) s

/-- `VINS Vd, <lane>, xs=<value32>` (R122). -/
def execVins (rd : Reg) (k : LaneIx) (s : State) : Host.Outcome State Fault Refusal :=
  commonStep [rd] (fun s => s.finishWrite rd (insertLane (s.readV rd) k (laneData s))) s

end Sys2Proof.Machine
end

