-- ==== Sys2Proof/Machine/Dispatch.lean ====
section
/-! DEFINITION. One arm per instruction, each a direct call of its meaning. -/

namespace Sys2Proof.Machine

def exec (i : Instr) (s : State) : Host.Outcome State Fault Refusal :=
  match i with
  | .vfadd rd ra rb => Sys2Proof.Machine.execVfadd rd ra rb s
  | .vfmul rd ra rb => Sys2Proof.Machine.execVfmul rd ra rb s
  | .vfmadd rd ra rb rc => Sys2Proof.Machine.execVfmadd rd ra rb rc s
  | .vfmsub rd ra rb rc => Sys2Proof.Machine.execVfmsub rd ra rb rc s
  | .vuadd rd ra rb => Sys2Proof.Machine.execVuadd rd ra rb s
  | .vuacc rd ra rb => Sys2Proof.Machine.execVuacc rd ra rb s
  | .vor rd ra rb => Sys2Proof.Machine.execVor rd ra rb s
  | .vandn rd ra rb => Sys2Proof.Machine.execVandn rd ra rb s
  | .vand rd ra rb => Sys2Proof.Machine.execVand rd ra rb s
  | .vtestz ra rb => Sys2Proof.Machine.execVtestz ra rb s
  | .vst ra => Sys2Proof.Machine.execVst ra s
  | .vbcast rd => Sys2Proof.Machine.execVbcast rd s
  | .vins rd k => Sys2Proof.Machine.execVins rd k s
  | .vcmpEqOq rd ra rb => Sys2Proof.Machine.execVcmpEqOq rd ra rb s
  | .vcmpLtOs rd ra rb => Sys2Proof.Machine.execVcmpLtOs rd ra rb s
  | .vcmpLeOs rd ra rb => Sys2Proof.Machine.execVcmpLeOs rd ra rb s
  | .vcmpUnordQ rd ra rb => Sys2Proof.Machine.execVcmpUnordQ rd ra rb s
  | .vcmpNeqUq rd ra rb => Sys2Proof.Machine.execVcmpNeqUq rd ra rb s
  | .vcmpNltUs rd ra rb => Sys2Proof.Machine.execVcmpNltUs rd ra rb s
  | .vcmpNleUs rd ra rb => Sys2Proof.Machine.execVcmpNleUs rd ra rb s
  | .vcmpOrdQ rd ra rb => Sys2Proof.Machine.execVcmpOrdQ rd ra rb s
  | .vcmpEqUq rd ra rb => Sys2Proof.Machine.execVcmpEqUq rd ra rb s
  | .vcmpNgeUs rd ra rb => Sys2Proof.Machine.execVcmpNgeUs rd ra rb s
  | .vcmpNgtUs rd ra rb => Sys2Proof.Machine.execVcmpNgtUs rd ra rb s
  | .vcmpFalseOq rd ra rb => Sys2Proof.Machine.execVcmpFalseOq rd ra rb s
  | .vcmpNeqOq rd ra rb => Sys2Proof.Machine.execVcmpNeqOq rd ra rb s
  | .vcmpGeOs rd ra rb => Sys2Proof.Machine.execVcmpGeOs rd ra rb s
  | .vcmpGtOs rd ra rb => Sys2Proof.Machine.execVcmpGtOs rd ra rb s
  | .vcmpTrueUq rd ra rb => Sys2Proof.Machine.execVcmpTrueUq rd ra rb s
  | .vcmpEqOs rd ra rb => Sys2Proof.Machine.execVcmpEqOs rd ra rb s
  | .vcmpLtOq rd ra rb => Sys2Proof.Machine.execVcmpLtOq rd ra rb s
  | .vcmpLeOq rd ra rb => Sys2Proof.Machine.execVcmpLeOq rd ra rb s
  | .vcmpUnordS rd ra rb => Sys2Proof.Machine.execVcmpUnordS rd ra rb s
  | .vcmpNeqUs rd ra rb => Sys2Proof.Machine.execVcmpNeqUs rd ra rb s
  | .vcmpNltUq rd ra rb => Sys2Proof.Machine.execVcmpNltUq rd ra rb s
  | .vcmpNleUq rd ra rb => Sys2Proof.Machine.execVcmpNleUq rd ra rb s
  | .vcmpOrdS rd ra rb => Sys2Proof.Machine.execVcmpOrdS rd ra rb s
  | .vcmpEqUs rd ra rb => Sys2Proof.Machine.execVcmpEqUs rd ra rb s
  | .vcmpNgeUq rd ra rb => Sys2Proof.Machine.execVcmpNgeUq rd ra rb s
  | .vcmpNgtUq rd ra rb => Sys2Proof.Machine.execVcmpNgtUq rd ra rb s
  | .vcmpFalseOs rd ra rb => Sys2Proof.Machine.execVcmpFalseOs rd ra rb s
  | .vcmpNeqOs rd ra rb => Sys2Proof.Machine.execVcmpNeqOs rd ra rb s
  | .vcmpGeOq rd ra rb => Sys2Proof.Machine.execVcmpGeOq rd ra rb s
  | .vcmpGtOq rd ra rb => Sys2Proof.Machine.execVcmpGtOq rd ra rb s
  | .vcmpTrueUs rd ra rb => Sys2Proof.Machine.execVcmpTrueUs rd ra rb s
  | .vcmpInvalidMode rd ra rb mode => Sys2Proof.Machine.execVcmpInvalidMode rd ra rb mode s

end Sys2Proof.Machine
end

