-- ==== Sys2Proof/Machine/Interrupt.lean ====
section
/-! DEFINITION. A reset event while a command is in progress (70_reset_and_hazards.md rule R191). -/

namespace Sys2Proof.Machine

/-- The command `c` is interrupted by a reset event (R191): no response; the unit as after rule R190; only a `VST` has an
effect that outlives the reset, on memory. -/
def State.resetDuring (s : State) (c : Command) : State :=
  let s := s.present c
  match decode c.w with
  | .ok (.vst ra) => { s with mem := interruptedStore ra s }.resetEvent
  | _ => s.resetEvent

end Sys2Proof.Machine
end

