-- ==== Sys2Proof/Machine/Step.lean ====
section
/-! DEFINITION. One step of the machine: the next action of the host is taken (10_state.md rules R26, R35, R36;
70_reset_and_hazards.md rules R190, R191, R200). -/

namespace Sys2Proof.Machine

/-- With no action pending the unit is idle and holds its state (R185). A command is refused while the unit is faulted,
before it is decoded (R36 step 1, R177); an illegal word raises `ILLEGAL_COMMAND` (step 2); any other word runs. -/
def step (s : State) : Host.Outcome State Fault Refusal :=
  match s.takeAction with
  | none => .next s
  | some (.reset, s) => .next s.resetEvent
  | some (.resetDuring c, s) => .next (s.resetDuring c)
  | some (.memWrite addr byte, s) => .next (s.hostWrite addr byte)
  | some (.command c, s) =>
    if s.faulted then .next (s.present c).refuse
    else
      match decode c.w with
      | .error _ => .next ((s.present c).raise .illegalCommand)
      | .ok i => exec i (s.present c)

/-- The state with one more pending command at the head of the inbox: the word `w` (its bits above `nbits` zero) and the
scalar operand 0, so that the next step of a unit that is not faulted runs it (log 1). -/
def State.withFetchWord (s : State) (nbits w : Nat) : State :=
  { s with inbox := .command ⟨BitVec.ofNat 32 (w % 2 ^ nbits), 0⟩ :: s.inbox }

end Sys2Proof.Machine
end

