-- ==== Sys2Proof/Safety.lean ====
section
/-! DEFINITION. The terms in which the statements are made: what a command reads and writes, what it leaves unchanged,
which fault it takes, the invariant, and the arithmetic rules over the rationals as the spec writes them. -/

namespace Sys2Proof

/-- `sources(d)`: the registers an instruction reads (R36). -/
def Instr.sources : Instr → List Reg
  | .vfadd _ ra rb => [ra, rb]
  | .vfmul _ ra rb => [ra, rb]
  | .vfmadd _ ra rb rc => [ra, rb, rc]
  | .vfmsub _ ra rb rc => [ra, rb, rc]
  | .vuadd _ ra rb => [ra, rb]
  | .vuacc _ ra rb => [ra, rb]
  | .vor _ ra rb => [ra, rb]
  | .vandn _ ra rb => [ra, rb]
  | .vand _ ra rb => [ra, rb]
  | .vtestz ra rb => [ra, rb]
  | .vst ra => [ra]
  | .vbcast _ => []
  | .vins rd _ => [rd]
  | .vcmpEqOq _ ra rb => [ra, rb]
  | .vcmpLtOs _ ra rb => [ra, rb]
  | .vcmpLeOs _ ra rb => [ra, rb]
  | .vcmpUnordQ _ ra rb => [ra, rb]
  | .vcmpNeqUq _ ra rb => [ra, rb]
  | .vcmpNltUs _ ra rb => [ra, rb]
  | .vcmpNleUs _ ra rb => [ra, rb]
  | .vcmpOrdQ _ ra rb => [ra, rb]
  | .vcmpEqUq _ ra rb => [ra, rb]
  | .vcmpNgeUs _ ra rb => [ra, rb]
  | .vcmpNgtUs _ ra rb => [ra, rb]
  | .vcmpFalseOq _ _ _ => []
  | .vcmpNeqOq _ ra rb => [ra, rb]
  | .vcmpGeOs _ ra rb => [ra, rb]
  | .vcmpGtOs _ ra rb => [ra, rb]
  | .vcmpTrueUq _ _ _ => []
  | .vcmpEqOs _ ra rb => [ra, rb]
  | .vcmpLtOq _ ra rb => [ra, rb]
  | .vcmpLeOq _ ra rb => [ra, rb]
  | .vcmpUnordS _ ra rb => [ra, rb]
  | .vcmpNeqUs _ ra rb => [ra, rb]
  | .vcmpNltUq _ ra rb => [ra, rb]
  | .vcmpNleUq _ ra rb => [ra, rb]
  | .vcmpOrdS _ ra rb => [ra, rb]
  | .vcmpEqUs _ ra rb => [ra, rb]
  | .vcmpNgeUq _ ra rb => [ra, rb]
  | .vcmpNgtUq _ ra rb => [ra, rb]
  | .vcmpFalseOs _ _ _ => []
  | .vcmpNeqOs _ ra rb => [ra, rb]
  | .vcmpGeOq _ ra rb => [ra, rb]
  | .vcmpGtOq _ ra rb => [ra, rb]
  | .vcmpTrueUs _ _ _ => []
  | .vcmpInvalidMode _ _ _ _ => []

/-- The register an instruction writes, if it writes one (R37). -/
def Instr.dest : Instr → Option Reg
  | .vfadd rd _ _ => some rd
  | .vfmul rd _ _ => some rd
  | .vfmadd rd _ _ _ => some rd
  | .vfmsub rd _ _ _ => some rd
  | .vuadd rd _ _ => some rd
  | .vuacc rd _ _ => some rd
  | .vor rd _ _ => some rd
  | .vandn rd _ _ => some rd
  | .vand rd _ _ => some rd
  | .vtestz _ _ => none
  | .vst _ => none
  | .vbcast rd => some rd
  | .vins rd _ => some rd
  | .vcmpEqOq rd _ _ => some rd
  | .vcmpLtOs rd _ _ => some rd
  | .vcmpLeOs rd _ _ => some rd
  | .vcmpUnordQ rd _ _ => some rd
  | .vcmpNeqUq rd _ _ => some rd
  | .vcmpNltUs rd _ _ => some rd
  | .vcmpNleUs rd _ _ => some rd
  | .vcmpOrdQ rd _ _ => some rd
  | .vcmpEqUq rd _ _ => some rd
  | .vcmpNgeUs rd _ _ => some rd
  | .vcmpNgtUs rd _ _ => some rd
  | .vcmpFalseOq rd _ _ => some rd
  | .vcmpNeqOq rd _ _ => some rd
  | .vcmpGeOs rd _ _ => some rd
  | .vcmpGtOs rd _ _ => some rd
  | .vcmpTrueUq rd _ _ => some rd
  | .vcmpEqOs rd _ _ => some rd
  | .vcmpLtOq rd _ _ => some rd
  | .vcmpLeOq rd _ _ => some rd
  | .vcmpUnordS rd _ _ => some rd
  | .vcmpNeqUs rd _ _ => some rd
  | .vcmpNltUq rd _ _ => some rd
  | .vcmpNleUq rd _ _ => some rd
  | .vcmpOrdS rd _ _ => some rd
  | .vcmpEqUs rd _ _ => some rd
  | .vcmpNgeUq rd _ _ => some rd
  | .vcmpNgtUq rd _ _ => some rd
  | .vcmpFalseOs rd _ _ => some rd
  | .vcmpNeqOs rd _ _ => some rd
  | .vcmpGeOq rd _ _ => some rd
  | .vcmpGtOq rd _ _ => some rd
  | .vcmpTrueUs rd _ _ => some rd
  | .vcmpInvalidMode _ _ _ _ => none

/-- The instructions whose result lane `i` is a function of lane `i` of the sources (R24): all that write a register but
`VBCAST` and `VINS`. -/
def Instr.lanePreserving : Instr → Bool
  | .vbcast _ => false
  | .vins _ _ => false
  | i => i.dest.isSome

end Sys2Proof

namespace Sys2Proof.Machine

/-! ## What a command does and what it leaves unchanged -/

/-- The unit holds the same registers, valid bits, flag and fault record (R33). -/
structure SameUnit (s t : State) : Prop where
  registers : ∀ r, t.readV r = s.readV r
  status : t.statusOutputs = s.statusOutputs

/-- Every byte of memory reads the same. -/
def SameMemory (s t : State) : Prop := ∀ x, t.mem.read x = s.mem.read x

/-- The interface is the same but for one more response. -/
structure Answers (s t : State) (r : Response) : Prop where
  responses : t.responses = s.responses ++ [r]
  inbox : t.inbox = s.inbox
  cmd : t.cmd = s.cmd
  writable : t.writable = s.writable

/-- `t` is `s` after an `OK` command that wrote the register `rd` with the lanes `val` and nothing else. The response's
`z` is no part of this (log 10): the statement EveryStepAnswersItsAction gives it for every command. -/
structure WritesRegister (s t : State) (rd : Reg) (val : LaneIx → Lane) : Prop where
  lanes : ∀ i, lane (t.readV rd) i = val i
  valid : t.valid rd = true
  otherRegisters : ∀ r, r ≠ rd → t.readV r = s.readV r ∧ t.valid r = s.valid r
  flag : t.z = s.z
  record : t.faulted = s.faulted ∧ t.fcause = s.fcause ∧ t.fcmd = s.fcmd ∧ t.fxs = s.fxs
  memory : SameMemory s t
  answer : ∃ z, Answers s t ⟨.ok, z⟩
  draws : t.draws = s.draws

/-- `t` is `s` after fault entry with the cause `f` for the command `s.cmd`, memory apart (R175, whose `z` = 0 log 10
names). -/
structure EntersFault (s t : State) (f : FaultCause) : Prop where
  registers : ∀ r, t.readV r = s.readV r
  status : t.statusOutputs = ⟨s.z, s.vv, true, f.code, s.cmd.w, s.cmd.xs⟩
  answer : Answers s t ⟨.fault, false⟩

/-- The response `r` that ends in the state `t` carries the current `Z` if it is `OK`, and 0 otherwise (log 10). -/
def CarriesFlag (t : State) (r : Response) : Prop := (r.status = .ok → r.z = t.z) ∧ (r.status ≠ .ok → r.z = false)

/-- The instruction completes in `s`, writing the lanes `val` to `rd` and nothing else. -/
def CompletesWriting (i : Instr) (s : State) (rd : Reg) (val : LaneIx → Lane) : Prop :=
  ∃ t, exec i s = .next t ∧ WritesRegister s t rd val

/-- A comparison completes, each lane all-ones where `p` holds of the source lanes and all-zero elsewhere (R130, R133). -/
def CompletesComparing (i : Instr) (s : State) (rd ra rb : Reg) (p : Lane → Lane → Bool) : Prop :=
  CompletesWriting i s rd fun k => if p (lane (s.readV ra) k) (lane (s.readV rb) k) then ones32 else zero32

/-- The unit accepts a command and the registers `rs` have been written since reset (R36 steps 1 and 4). -/
def Ready (s : State) (rs : List Reg) : Prop := s.faulted = false ∧ ∀ r ∈ rs, s.valid r = true

/-- Byte `j` of the lane word `i` of the 32 bytes at `a` (R41, R42). -/
def byteAt (a : Nat) (i : LaneIx) (j : Fin 4) : Nat := a + 4 * i.val + j.val

/-- The byte a store of `x` puts there: bits `8*j+7 : 8*j` of lane `i` (R41). -/
def storedByte (x : VReg) (i : LaneIx) (j : Fin 4) : Byte := (lane x i).extractLsb' (8 * j.val) 8

/-! ## The first fault of a command (R174) -/

/-- The fault of the store address `a`, if any, in the order of rule R174. -/
def storeFault (s : State) (a : Word64) : Option FaultCause :=
  if a.toNat % 4 ≠ 0 then some .storeMisaligned
  else if 2 ^ 64 - 32 < a.toNat then some .storeAccess
  else if ∀ i : LaneIx, s.writableAt (a.toNat + 4 * i.val) = true then none
  else some .storeAccess

/-- The fault reported for a decoded command: the first of rule R174 whose condition holds. -/
def instrFault (s : State) (a : Word64) (i : Instr) : Option FaultCause :=
  match i with
  | .vcmpInvalidMode _ _ _ _ => some .invalidMode
  | .vst ra => if s.valid ra = true then storeFault s a else some .uninitRead
  | i => if ∀ r ∈ i.sources, s.valid r = true then none else some .uninitRead

/-- The fault reported for the command `c` presented to the unit in the state `s`, if any (R171, R174). -/
def commandFault (s : State) (c : Command) : Option FaultCause :=
  match decode c.w with
  | .error _ => some .illegalCommand
  | .ok i => instrFault s c.xs i

/-! ## Runs -/

/-- The action is a command. -/
def HostAction.isCommand : HostAction → Bool
  | .command _ => true
  | .reset => false
  | .resetDuring _ => false
  | .memWrite _ _ => false

/-- The action applies the reset event (R190, R191). -/
def HostAction.isReset : HostAction → Bool
  | .command _ => false
  | .reset => true
  | .resetDuring _ => true
  | .memWrite _ _ => false

/-- The next action of the host applies the reset event. -/
def ResetPending (s : State) : Prop := ∃ a rest, s.inbox = a :: rest ∧ a.isReset = true

/-- The invariant of the machine: memory is in its canonical form, and the fault record is all zero unless the unit is
faulted and then holds one of the codes 1 to 5 (R29, R30, R40). -/
structure State.Inv (s : State) : Prop where
  memory : s.mem.wf
  clear : s.faulted = false → s.fcause = 0 ∧ s.fcmd = 0 ∧ s.fxs = 0
  code : s.faulted = true → 1 ≤ s.fcause.toNat ∧ s.fcause.toNat ≤ 5

/-! ## The arithmetic rules over the rationals -/

/-- `mag(x)` (R11). -/
def magQ (x : Lane) : ℚ :=
  if expField x = 0#8 then (fracField x).toNat * (2 : ℚ) ^ (-149 : ℤ)
  else (2 ^ 23 + (fracField x).toNat) * (2 : ℚ) ^ ((expField x).toNat - 150 : ℤ)

/-- `val(x)` (R11). -/
def valQ (x : Lane) : ℚ := if signBit x then -magQ x else magQ x

/-- `round32(s, q)` (R12), `q >= 0`. -/
def round32Q (s : Bool) (q : ℚ) : Lane :=
  if q = 0 then zeroOf s
  else
    let bigE := max (Int.log 2 q) (-126)
    let m := q / (2 : ℚ) ^ (bigE - 23)
    let n := ⌊m⌋
    let r := m - n
    let n1 := if 1 / 2 < r ∨ (r = 1 / 2 ∧ n % 2 = 1) then n + 1 else n
    let n2 := if n1 = 2 ^ 24 then 2 ^ 23 else n1
    let bigE2 := if n1 = 2 ^ 24 then bigE + 1 else bigE
    if 127 < bigE2 then infinity s
    else if n2 < 2 ^ 23 then packFloat s 0 (BitVec.ofInt 23 n2)
    else packFloat s (BitVec.ofInt 8 (bigE2 + 127)) (BitVec.ofInt 23 (n2 - 2 ^ 23))

/-- `fadd32(a, b)` (R85). -/
def fadd32Q (a b : Lane) : Lane :=
  if isNaN a || isNaN b then nanResult .add a b 0
  else if isInf a && isInf b then
    if signBit a = signBit b then a else nanResult .add a b 0
  else if isInf a then a
  else if isInf b then b
  else if valQ a + valQ b = 0 then
    if isZero a && isZero b then zeroOf (signBit a && signBit b) else zeroOf false
  else round32Q (decide (valQ a + valQ b < 0)) |valQ a + valQ b|

/-- `fmul32(a, b)` (R86). -/
def fmul32Q (a b : Lane) : Lane :=
  if isNaN a || isNaN b then nanResult .mul a b 0
  else if (isInf a && isZero b) || (isZero a && isInf b) then nanResult .mul a b 0
  else if isInf a || isInf b then infinity (signBit a ^^ signBit b)
  else round32Q (signBit a ^^ signBit b) |valQ a * valQ b|

/-- `fma32(a, b, c)` (R87). -/
def fma32Q (a b c : Lane) : Lane :=
  let sp := signBit a ^^ signBit b
  if isNaN a || isNaN b || isNaN c then nanResult .fma a b c
  else if (isInf a && isZero b) || (isZero a && isInf b) then nanResult .fma a b c
  else if isInf a || isInf b then
    if isInf c && signBit c != sp then nanResult .fma a b c else infinity sp
  else if isInf c then c
  else if valQ a * valQ b + valQ c = 0 then
    if valQ a * valQ b = 0 ∧ isZero c then (if sp = signBit c then zeroOf sp else zeroOf false) else zeroOf false
  else round32Q (decide (valQ a * valQ b + valQ c < 0)) |valQ a * valQ b + valQ c|

/-! ## The comparator's classes (R156) -/

/-- The word whose bit `k` is the base predicate `P_k` on the class of the pair (R156): `UN`, `LT`, `EQ`, `GT`. -/
def classWord (a b : Lane) : BitVec 16 :=
  if nanPair a b then 0x8778 else if relLt a b then 0x9696 else if relEq a b then 0xA5A5 else 0xF0F0

/-- The base predicates by number (R140 to R155). -/
def basePredicates : List (Lane → Lane → Bool) :=
  [p0, p1, p2, p3, p4, p5, p6, p7, p8, p9, p10, p11, p12, p13, p14, p15]

/-- `VCMP` in the mode `m` (R134). -/
def vcmpMode (m : Fin 32) (rd ra rb : Reg) : Instr := vcmpOfMode (BitVec.ofNat 8 m.val) rd ra rb

/-! ## The escape state (R103) -/

/-- One step of the escape state of a lane, `(mask, count)`: `VOR M, M, X` and then `VUACC C, C, M`. -/
def escapeStep (mc : Lane × Lane) (x : Lane) : Lane × Lane :=
  (orLane mc.1 x, uaccLane mc.2 (orLane mc.1 x))

end Sys2Proof.Machine
end

