-- ==== Sys2Proof/Certificates/Slice0/Obligations.lean ====
section
/-! DEFINITION. The statements for the provers. Each docstring names the rules of spec/ it formalises. -/

open Sys2Proof Sys2Proof.Machine

/-- O1 (R62, R63, R64, R65, R66, R70). For every well-formed instruction i (every mnemonic of the opcode table, every
operand at every value its field admits) decode (encode i) = i. -/
def Obligations.DecodeOfEncodeIsTheInstruction : Prop :=
  ∀ i : Instr, i.wellFormed = true → decode (encode i) = .ok i

/-- O2 (R63, R65, R70). If a word w decodes to i then i is well-formed and encode i = w, so no bit of a legal word is
dropped and no two words decode to one instruction. -/
def Obligations.EncodeOfDecodeIsTheWord : Prop :=
  ∀ (w : CmdWord) (i : Instr), decode w = .ok i → i.wellFormed = true ∧ encode i = w

/-- O3 (R68). The table has 48 rows, 13 plain, 32 modes and 3 invalid-mode rows; no word is selected by two of them; a
word is illegal iff no row selects it; it is an invalid mode iff one of the three invalid-mode rows selects it;
presenting an illegal word to an unfaulted unit raises ILLEGAL_COMMAND whatever xs is and nothing else happens;
0x00000000 and 0xFFFFFFFF are illegal; opcode 0x20 with rc nonzero is illegal whatever imm8 is. -/
def Obligations.IllegalWordsMatchNoRow : Prop :=
  (plainRows.length = 13 ∧ invalidModeRows.length = 3 ∧ tableRows.length = 48) ∧
  tableRows.Pairwise (fun p q => ∀ w, ¬ (p.selects w = true ∧ q.selects w = true)) ∧
  (∀ w : CmdWord, (∃ e, decode w = .error e) ↔ ∀ row ∈ tableRows, row.selects w = false) ∧
  (∀ w : CmdWord, (∃ rd ra rb m, decode w = .ok (.vcmpInvalidMode rd ra rb m)) ↔
    ∃ row ∈ invalidModeRows, row.selects w = true) ∧
  (∀ (s : State) (c : Command) (rest : List HostAction), s.inbox = .command c :: rest → s.faulted = false →
    (∀ row ∈ tableRows, row.selects c.w = false) →
    ∃ t, step s = .next t ∧ EntersFault { s with inbox := rest, cmd := c } t .illegalCommand ∧ SameMemory s t) ∧
  (∃ e, decode 0x00000000#32 = .error e) ∧ (∃ e, decode 0xFFFFFFFF#32 = .error e) ∧
  (∀ w : CmdWord, opcodeField w = 0x20#8 → rcField w ≠ 0#4 → ∃ e, decode w = .error e)

/-- O4 (R88, R89, R90, R91, R100, R101, R110, R111, R112, R113, R120, R130). The example words of the instruction rules
decode to their instructions: VFADD V4,V3,V2, VFMUL V3,V1,V1, VFMADD V5,V1,V1,V2, VFMSUB V8,V1,V1,V2, VUADD
V10,V10,V9, VUACC V9,V9,V4, VOR V6,V3,V4, VANDN V10,V5,V10, VAND V3,V1,V2, VTESTZ V3,V4, VST V5, VBCAST V4, VINS
V1,3, VCMP V10,V9,V4,17 and the invalid mode 32. -/
def Obligations.ExampleWordsDecode : Prop :=
  decode 0x01432000 = .ok (.vfadd 4 3 2) ∧ decode 0x02311000 = .ok (.vfmul 3 1 1) ∧
  decode 0x03511200 = .ok (.vfmadd 5 1 1 2) ∧ decode 0x04811200 = .ok (.vfmsub 8 1 1 2) ∧
  decode 0x08AA9000 = .ok (.vuadd 10 10 9) ∧ decode 0x09994000 = .ok (.vuacc 9 9 4) ∧
  decode 0x10634000 = .ok (.vor 6 3 4) ∧ decode 0x11A5A000 = .ok (.vandn 10 5 10) ∧
  decode 0x12312000 = .ok (.vand 3 1 2) ∧ decode 0x13034000 = .ok (.vtestz 3 4) ∧
  decode 0x18050000 = .ok (.vst 5) ∧ decode 0x1C400000 = .ok (.vbcast 4) ∧
  decode 0x1D100003 = .ok (.vins 1 3) ∧ decode 0x20A94011 = .ok (.vcmpLtOq 10 9 4) ∧
  decode 0x20123020 = .ok (.vcmpInvalidMode 1 2 3 0x20)

/-- O5 (R65, R130, R134). For all registers, the word 0x20 d a b 0 MM decodes to the VCMP instruction that rule R134
names for the mode value MM, for each of the 32 values. -/
def Obligations.ModeNumbersOfVcmp : Prop :=
  ∀ rd ra rb : Reg,
    decode (packWord 0x20 rd ra rb 0 0) = .ok (.vcmpEqOq rd ra rb) ∧
    decode (packWord 0x20 rd ra rb 0 1) = .ok (.vcmpLtOs rd ra rb) ∧
    decode (packWord 0x20 rd ra rb 0 2) = .ok (.vcmpLeOs rd ra rb) ∧
    decode (packWord 0x20 rd ra rb 0 3) = .ok (.vcmpUnordQ rd ra rb) ∧
    decode (packWord 0x20 rd ra rb 0 4) = .ok (.vcmpNeqUq rd ra rb) ∧
    decode (packWord 0x20 rd ra rb 0 5) = .ok (.vcmpNltUs rd ra rb) ∧
    decode (packWord 0x20 rd ra rb 0 6) = .ok (.vcmpNleUs rd ra rb) ∧
    decode (packWord 0x20 rd ra rb 0 7) = .ok (.vcmpOrdQ rd ra rb) ∧
    decode (packWord 0x20 rd ra rb 0 8) = .ok (.vcmpEqUq rd ra rb) ∧
    decode (packWord 0x20 rd ra rb 0 9) = .ok (.vcmpNgeUs rd ra rb) ∧
    decode (packWord 0x20 rd ra rb 0 10) = .ok (.vcmpNgtUs rd ra rb) ∧
    decode (packWord 0x20 rd ra rb 0 11) = .ok (.vcmpFalseOq rd ra rb) ∧
    decode (packWord 0x20 rd ra rb 0 12) = .ok (.vcmpNeqOq rd ra rb) ∧
    decode (packWord 0x20 rd ra rb 0 13) = .ok (.vcmpGeOs rd ra rb) ∧
    decode (packWord 0x20 rd ra rb 0 14) = .ok (.vcmpGtOs rd ra rb) ∧
    decode (packWord 0x20 rd ra rb 0 15) = .ok (.vcmpTrueUq rd ra rb) ∧
    decode (packWord 0x20 rd ra rb 0 16) = .ok (.vcmpEqOs rd ra rb) ∧
    decode (packWord 0x20 rd ra rb 0 17) = .ok (.vcmpLtOq rd ra rb) ∧
    decode (packWord 0x20 rd ra rb 0 18) = .ok (.vcmpLeOq rd ra rb) ∧
    decode (packWord 0x20 rd ra rb 0 19) = .ok (.vcmpUnordS rd ra rb) ∧
    decode (packWord 0x20 rd ra rb 0 20) = .ok (.vcmpNeqUs rd ra rb) ∧
    decode (packWord 0x20 rd ra rb 0 21) = .ok (.vcmpNltUq rd ra rb) ∧
    decode (packWord 0x20 rd ra rb 0 22) = .ok (.vcmpNleUq rd ra rb) ∧
    decode (packWord 0x20 rd ra rb 0 23) = .ok (.vcmpOrdS rd ra rb) ∧
    decode (packWord 0x20 rd ra rb 0 24) = .ok (.vcmpEqUs rd ra rb) ∧
    decode (packWord 0x20 rd ra rb 0 25) = .ok (.vcmpNgeUq rd ra rb) ∧
    decode (packWord 0x20 rd ra rb 0 26) = .ok (.vcmpNgtUq rd ra rb) ∧
    decode (packWord 0x20 rd ra rb 0 27) = .ok (.vcmpFalseOs rd ra rb) ∧
    decode (packWord 0x20 rd ra rb 0 28) = .ok (.vcmpNeqOs rd ra rb) ∧
    decode (packWord 0x20 rd ra rb 0 29) = .ok (.vcmpGeOq rd ra rb) ∧
    decode (packWord 0x20 rd ra rb 0 30) = .ok (.vcmpGtOq rd ra rb) ∧
    decode (packWord 0x20 rd ra rb 0 31) = .ok (.vcmpTrueUs rd ra rb)

/-- O6 (R26, R36, R60, R67). When the host has presented the command c = (w, xs), the unit is not faulted and w decodes
to i, the step is exec of i at the state with the command taken off the inbox and put in progress (cmd := c);
nothing else is added around exec. -/
def Obligations.StepRunsTheDecodedInstruction : Prop :=
  ∀ (s : State) (c : Command) (rest : List HostAction) (i : Instr),
    s.inbox = .command c :: rest → s.faulted = false → decode c.w = .ok i →
    step s = exec i { s with inbox := rest, cmd := c }

/-- O7 (R35, R185, R199, R200). From every state the step answers a next state: with nothing pending the same state;
with a command pending the command is taken and exactly one response appended; with a reset, a reset during a
command or a memory write pending it is taken and no response appended. Every response of a command, of a step or of
exec by itself, carries z = the current Z after the command if it is OK, and 0 if it is FAULT or REFUSED. Two
clauses are the model's choice and no rule is cited for them: that a reset during a command appends no response (log
11; R191 leaves that reset outside the defined behaviour, and R199 gives every command a response), and the value of
z (log 10; R36 and R48 have 0 for an OK command other than VTESTZ, decision D6 the current Z in every response). -/
def Obligations.EveryStepAnswersItsAction : Prop :=
  (∀ s : State, ∃ t, step s = .next t ∧
    (s.inbox = [] → t = s) ∧
    (∀ c rest, s.inbox = .command c :: rest →
      t.inbox = rest ∧ ∃ r, t.responses = s.responses ++ [r] ∧ CarriesFlag t r) ∧
    (∀ rest, s.inbox = .reset :: rest → t.inbox = rest ∧ t.responses = s.responses) ∧
    (∀ c rest, s.inbox = .resetDuring c :: rest → t.inbox = rest ∧ t.responses = s.responses) ∧
    (∀ a b rest, s.inbox = .memWrite a b :: rest → t.inbox = rest ∧ t.responses = s.responses)) ∧
  (∀ (i : Instr) (s t : State), exec i s = .next t →
    ∃ r, t.responses = s.responses ++ [r] ∧ CarriesFlag t r)

/-- O8 (R196, R199, R201). From every state, running as many steps as the inbox has actions reaches a state with an
empty inbox, the old responses followed by exactly one response for each command that was pending. It is the run
form of EveryStepAnswersItsAction. The command of a reset during a command is not counted as pending: that it gets
no response is the model's choice (log 11), outside what R191 defines. -/
def Obligations.RunAnswersEveryCommand : Prop :=
  ∀ s : State, ∃ t new, Host.Core.run core s.inbox.length s = .next t ∧ t.inbox = [] ∧
    t.responses = s.responses ++ new ∧ new.length = (s.inbox.filter HostAction.isCommand).length

/-- O9 (R201). From every unfaulted state with no reset among the pending actions (commands, and writes of memory by the
host between them), after all of them were taken, every new response is OK iff FAULTED is 0 at the end. -/
def Obligations.RunSucceedsIffUnfaultedAtTheEnd : Prop :=
  ∀ (s t : State) (new : List Response), s.faulted = false → (∀ a ∈ s.inbox, a.isReset = false) →
    Host.Core.run core s.inbox.length s = .next t → t.responses = s.responses ++ new →
    ((∀ r ∈ new, r.status = .ok) ↔ t.faulted = false)

/-- O10 (R29, R30, R40). For every state with the invariant (memory in canonical form with every address below 2^64;
FCAUSE, FCMD, FXS zero while FAULTED = 0; FCAUSE one of 1 to 5 while FAULTED = 1), the state after a step has it. -/
def Obligations.EveryStepKeepsTheInvariant : Prop :=
  ∀ s t : State, s.Inv → step s = .next t → t.Inv

/-- O11 (R29, R30, R34). State.reset has the invariant that every step keeps. -/
def Obligations.InvariantHoldsAtReset : Prop :=
  State.reset.Inv

/-- O12 (R28, R29, R30, R34). In State.reset the status outputs are Z = 0, VV = 0x0000, FAULTED = 0, FCAUSE = 0, FCMD =
0, FXS = 0, and no register is valid; nothing is said of the contents of V or of memory. -/
def Obligations.ResetStateHoldsTheSpecifiedValues : Prop :=
  State.reset.statusOutputs = ⟨false, 0x0000, false, 0, 0x00000000, 0x0000000000000000⟩ ∧
  ∀ r, State.reset.valid r = false

/-- O13 (R34, R177, R190). From every state with a reset pending, the step clears VV, Z, FAULTED, FCAUSE, FCMD and FXS,
makes every register unreadable, leaves every byte of memory and Writable unchanged and answers no response; and if
a step leaves the faulted state, a reset was pending (a reset during a command counted). The contents of V are left
open. -/
def Obligations.ResetEventClearsTheUnit : Prop :=
  (∀ (s : State) (rest : List HostAction), s.inbox = .reset :: rest →
    ∃ t, step s = .next t ∧ t.statusOutputs = ⟨false, 0x0000, false, 0, 0x00000000, 0x0000000000000000⟩ ∧
      (∀ r, t.valid r = false) ∧ SameMemory s t ∧ t.writable = s.writable ∧ t.responses = s.responses ∧
      t.inbox = rest) ∧
  (∀ s t : State, s.faulted = true → step s = .next t → t.faulted = false → ResetPending s)

/-- O14 (R20, R52, R53). From every state with a memory write pending, the step writes that byte, leaves every other
byte, every register, the status outputs and the responses as they were; a faulted unit does not hinder it. That
such a write is one byte wide, may go to any address whatever Writable says, and finds ordinary memory everywhere is
DEDUCED (log 19), and that it stands for other units too is a DESIGN CHOICE (log 9): R52 says nothing of how the
host accesses memory beyond what it sees and that its accesses are atomic per byte at least. -/
def Obligations.HostWriteChangesOneByte : Prop :=
  ∀ (s : State) (a : Word64) (b : Byte) (rest : List HostAction), s.inbox = .memWrite a b :: rest →
    ∃ t, step s = .next t ∧ SameUnit s t ∧ t.mem.read a.toNat = some b ∧
      (∀ x, x ≠ a.toNat → t.mem.read x = s.mem.read x) ∧ t.responses = s.responses ∧ t.inbox = rest

/-- O15 (R27). If a step answers a state whose Z differs from before, then either a reset was pending and Z is 0, or a
command that decodes to VTESTZ was pending and was answered OK with z equal to the new Z; every VTESTZ answered OK
returns the new Z; reset leaves Z = 0. -/
def Obligations.OnlyVtestzWritesTheFlag : Prop :=
  (∀ s t : State, step s = .next t → t.z ≠ s.z →
    (ResetPending s ∧ t.z = false) ∨
    ∃ c rest ra rb, s.inbox = .command c :: rest ∧ decode c.w = .ok (.vtestz ra rb) ∧
      t.responses = s.responses ++ [⟨.ok, t.z⟩]) ∧
  (∀ (s t : State) (c : Command) (rest : List HostAction) (ra rb : Reg) (z : Bool),
    s.inbox = .command c :: rest → decode c.w = .ok (.vtestz ra rb) → step s = .next t →
    t.responses = s.responses ++ [⟨.ok, z⟩] → t.z = z) ∧
  State.reset.z = false

/-- O16 (R13, R28). If a step changes the contents or the valid bit of register r, then a reset was pending, or a
command whose destination is r was pending, was answered OK, and r is valid afterwards; so only reset clears a valid
bit. -/
def Obligations.ValidBitsTrackRegisterWrites : Prop :=
  ∀ (s t : State) (r : Reg), step s = .next t → (t.valid r ≠ s.valid r ∨ t.readV r ≠ s.readV r) →
    ResetPending s ∨
    ∃ c rest i, s.inbox = .command c :: rest ∧ decode c.w = .ok i ∧ i.dest = some r ∧ t.valid r = true ∧
      ∃ z, t.responses = s.responses ++ [⟨.ok, z⟩]

/-- O17 (R32, R40, R123). If the pending command does not decode to VST (an illegal word among them), every byte of
memory reads after the step as before. -/
def Obligations.OnlyVstWritesMemory : Prop :=
  ∀ (s t : State) (c : Command) (rest : List HostAction), s.inbox = .command c :: rest →
    (∀ ra, decode c.w ≠ .ok (.vst ra)) → step s = .next t → SameMemory s t

/-- O18 (R30, R171, R175). For every state and every cause, raise sets FAULTED, FCAUSE to the code (1 ILLEGAL_COMMAND, 2
INVALID_MODE, 3 UNINIT_READ, 4 STORE_MISALIGNED, 5 STORE_ACCESS), FCMD to the command word and FXS to its scalar
operand, appends (FAULT, 0), and leaves every register, VV, Z and every byte of memory unchanged. The z = 0 is
R175's own; decision D6 has the current Z in every response (log 10). -/
def Obligations.FaultEntryWritesTheRecord : Prop :=
  (∀ (s : State) (f : FaultCause), EntersFault s (s.raise f) f ∧ SameMemory s (s.raise f)) ∧
  FaultCause.illegalCommand.code = 1 ∧ FaultCause.invalidMode.code = 2 ∧ FaultCause.uninitRead.code = 3 ∧
  FaultCause.storeMisaligned.code = 4 ∧ FaultCause.storeAccess.code = 5

/-- O19 (R36, R176). From every faulted state with a command pending, the step answers (REFUSED, 0) and leaves the
registers, the status outputs with the fault record, the free-value counter and every byte of memory unchanged; and
exec of every instruction in a faulted state does the same. The z = 0 is R176's own; decision D6 has the current Z
in every response (log 10). -/
def Obligations.FaultedUnitRefusesEveryCommand : Prop :=
  (∀ (s : State) (c : Command) (rest : List HostAction), s.faulted = true → s.inbox = .command c :: rest →
    ∃ t, step s = .next t ∧ SameUnit s t ∧ SameMemory s t ∧ t.draws = s.draws ∧
      Answers { s with inbox := rest, cmd := c } t ⟨.refused, false⟩) ∧
  (∀ (s : State) (i : Instr), s.faulted = true →
    ∃ t, exec i s = .next t ∧ SameUnit s t ∧ SameMemory s t ∧ t.draws = s.draws ∧ Answers s t ⟨.refused, false⟩)

/-- O20 (R176, R177). From every faulted state with no reset among the pending actions, after any number of steps the
registers and all status outputs, the fault record of the first fault among them, are as they were, every new
response is (REFUSED, 0), and memory is as it was if the host wrote none. The z = 0 is R176's own; decision D6 has
the current Z in every response (log 10). -/
def Obligations.FaultedUnitStaysQuiescentUntilReset : Prop :=
  ∀ (n : Nat) (s t : State), s.faulted = true → (∀ a ∈ s.inbox, a.isReset = false) → Host.Core.run core n s = .next t →
    SameUnit s t ∧ (∃ k, t.responses = s.responses ++ List.replicate k ⟨.refused, false⟩) ∧
    ((∀ a ∈ s.inbox, a.isCommand = true) → SameMemory s t)

/-- O21 (R36, R170, R171, R172, R174). For every unfaulted state and every pending command: if a fault condition of rule
R171 holds, the step enters the fault that comes first in the order ILLEGAL_COMMAND, INVALID_MODE, UNINIT_READ,
STORE_MISALIGNED, STORE_ACCESS; if none holds, the response is OK and the fault record is unchanged. The z of a
FAULT response is log 10's 0, as R175 has it; the z of an OK response is left to EveryStepAnswersItsAction. -/
def Obligations.FirstFaultInPriorityOrderIsReported : Prop :=
  ∀ (s : State) (c : Command) (rest : List HostAction), s.faulted = false → s.inbox = .command c :: rest →
    ∃ t, step s = .next t ∧
      match commandFault s c with
      | some f => EntersFault { s with inbox := rest, cmd := c } t f
      | none => (∃ z, Answers { s with inbox := rest, cmd := c } t ⟨.ok, z⟩) ∧ t.faulted = false ∧
          t.fcause = s.fcause ∧ t.fcmd = s.fcmd ∧ t.fxs = s.fxs

/-- O22 (R37). For every state and pending command the step appends one response, and: if it is OK, the word decodes to
an instruction, the fault record is unchanged, and at most this changes: for an instruction with a destination, that
register with its valid bit; for VTESTZ, Z; for VST, the 32 bytes at xs; if it is FAULT, every register, VV and Z
are unchanged, the record is written, and memory changes only for STORE_ACCESS and only inside the 32 bytes at xs;
if it is REFUSED, nothing changes. -/
def Obligations.WhatSurvivesACommand : Prop :=
  ∀ (s : State) (c : Command) (rest : List HostAction), s.inbox = .command c :: rest →
    ∃ t r, step s = .next t ∧ t.responses = s.responses ++ [r] ∧
      (r.status = .ok →
        (t.faulted = s.faulted ∧ t.fcause = s.fcause ∧ t.fcmd = s.fcmd ∧ t.fxs = s.fxs) ∧
        ∃ i, decode c.w = .ok i ∧
          ((∃ rd, i.dest = some rd ∧ (∀ q, q ≠ rd → t.readV q = s.readV q ∧ t.valid q = s.valid q) ∧ t.z = s.z ∧
              SameMemory s t) ∨
           (∃ ra rb, i = .vtestz ra rb ∧ (∀ q, t.readV q = s.readV q) ∧ t.vv = s.vv ∧ SameMemory s t) ∨
           (∃ ra, i = .vst ra ∧ SameUnit s t ∧
              ∀ x, x < c.xs.toNat ∨ c.xs.toNat + 32 ≤ x → t.mem.read x = s.mem.read x))) ∧
      (r.status = .fault →
        (∀ q, t.readV q = s.readV q) ∧ t.vv = s.vv ∧ t.z = s.z ∧
        (t.faulted = true ∧ t.fcmd = c.w ∧ t.fxs = c.xs) ∧
        (t.fcause ≠ FaultCause.storeAccess.code → SameMemory s t) ∧
        (∀ x, x < c.xs.toNat ∨ c.xs.toNat + 32 ≤ x → t.mem.read x = s.mem.read x)) ∧
      (r.status = .refused → SameUnit s t ∧ SameMemory s t)

/-- O23 (R28, R36, R172). For every instruction and every unfaulted state in which some register the instruction reads
is not valid, exec enters the fault UNINIT_READ and changes no register, flag or byte of memory. The registers read
are rule R36's: none for VBCAST and the four constant modes, rd for VINS. -/
def Obligations.NeverWrittenSourceFaults : Prop :=
  ∀ (i : Instr) (s : State), s.faulted = false → (∃ r ∈ i.sources, s.valid r = false) →
    ∃ t, exec i s = .next t ∧ EntersFault s t .uninitRead ∧ SameMemory s t

/-- O24 (R24, R93). For every instruction that writes a register from vector sources (all but VTESTZ, VST, VBCAST, VINS)
and every two states in which it executes and whose source registers agree in lane k, the two results agree in lane
k of the destination, however the states differ otherwise. -/
def Obligations.LanesDoNotInfluenceOneAnother : Prop :=
  ∀ (i : Instr) (rd : Reg) (k : LaneIx) (s1 s2 t1 t2 : State), i.lanePreserving = true → i.dest = some rd →
    Ready s1 i.sources → Ready s2 i.sources →
    (∀ r ∈ i.sources, lane (s1.readV r) k = lane (s2.readV r) k) →
    exec i s1 = .next t1 → exec i s2 = .next t2 → lane (t1.readV rd) k = lane (t2.readV rd) k

/-- O25 (R72). VMOV Vd, Va (the word of VOR Vd, Va, Va) writes the lanes of V[a] to V[d]; VZERO, VONES and VNOP (words
of VCMP in modes 11 and 15) write the constant lanes to V[d] (V15 for VNOP) in every unfaulted state, valid
registers or not; and with all-ones in Vones, VANDN Vd, Vones, Va writes the complement of V[a]. -/
def Obligations.PseudoCommandsDoWhatTheyName : Prop :=
  (∀ (d a : Reg) (s : State), encode (.vmov d a) = encode (.vor d a a) ∧
    (Ready s [a] → CompletesWriting (.vmov d a) s d (lane (s.readV a)))) ∧
  (∀ (d : Reg) (s : State), decode (packWord 0x20 d 0 0 0 11) = .ok (.vzero d) ∧
    (s.faulted = false → CompletesWriting (.vzero d) s d fun _ => zero32)) ∧
  (∀ (d : Reg) (s : State), decode (packWord 0x20 d 0 0 0 15) = .ok (.vones d) ∧
    (s.faulted = false → CompletesWriting (.vones d) s d fun _ => ones32)) ∧
  (∀ s : State, decode (packWord 0x20 15 0 0 0 11) = .ok .vnop ∧
    (s.faulted = false → CompletesWriting .vnop s 15 fun _ => zero32)) ∧
  (∀ (d ones a : Reg) (s : State), Ready s [ones, a] → (∀ k, lane (s.readV ones) k = ones32) →
    CompletesWriting (.vandn d ones a) s d fun k => ~~~ lane (s.readV a) k)

/-- O26 (R84, R88, R89, R197). For all registers (any may coincide) and every unfaulted state in which ra and rb are
valid, VFADD and VFMUL complete with status OK; lane k of rd is fadd32, respectively fmul32, of lane k of the old ra
and rb; every other register, valid bit, Z, the fault record and every byte of memory are unchanged. -/
def Obligations.VfaddAndVfmulComplete : Prop :=
  ∀ (rd ra rb : Reg) (s : State), Ready s [ra, rb] →
    CompletesWriting (.vfadd rd ra rb) s rd (fun k => fadd32 (lane (s.readV ra) k) (lane (s.readV rb) k)) ∧
    CompletesWriting (.vfmul rd ra rb) s rd (fun k => fmul32 (lane (s.readV ra) k) (lane (s.readV rb) k))

/-- O27 (R84, R90, R91, R197). For all registers (any may coincide) and every unfaulted state in which ra, rb and rc are
valid, VFMADD and VFMSUB complete with status OK; lane k of rd is fma32 of lane k of the old ra, rb, rc, for VFMSUB
with the sign bit of the third inverted; nothing else changes. -/
def Obligations.VfmaddAndVfmsubComplete : Prop :=
  ∀ (rd ra rb rc : Reg) (s : State), Ready s [ra, rb, rc] →
    CompletesWriting (.vfmadd rd ra rb rc) s rd
      (fun k => fma32 (lane (s.readV ra) k) (lane (s.readV rb) k) (lane (s.readV rc) k)) ∧
    CompletesWriting (.vfmsub rd ra rb rc) s rd
      (fun k => fma32 (lane (s.readV ra) k) (lane (s.readV rb) k) (negFloat (lane (s.readV rc) k)))

/-- O28 (R12). For every sign s and all natural numbers n and k, the model's integer rounding of n / 2^k equals
round32(s, q) of rule R12 computed on the rational q = n / 2^k with floor(log2 q), the subnormal grid, ties to even,
overflow to infinity and no flush to zero. -/
def Obligations.RoundingFollowsTheRationalRule : Prop :=
  ∀ (s : Bool) (n k : Nat), round32 s n k = round32Q s ((n : ℚ) / 2 ^ k)

/-- O29 (R85). For all lanes a and b, fadd32 a b is the result rule R85 gives on exact rationals: NaN operands and inf -
inf give NaNResult, infinities pass, an exact zero sum is -0 only for two -0 and +0 otherwise, any other sum is
rounded once; and fadd32 a b = fadd32 b a unless the result is a NaN. -/
def Obligations.AdditionFollowsTheRationalRule : Prop :=
  (∀ a b : Lane, fadd32 a b = fadd32Q a b) ∧
  (∀ a b : Lane, isNaN (fadd32 a b) = false → fadd32 a b = fadd32 b a)

/-- O30 (R86). For all lanes a and b, fmul32 a b is the result rule R86 gives on exact rationals. -/
def Obligations.MultiplicationFollowsTheRationalRule : Prop :=
  ∀ a b : Lane, fmul32 a b = fmul32Q a b

/-- O31 (R87). For all lanes a, b and c, fma32 a b c is the result rule R87 gives on exact rationals. -/
def Obligations.FusedMultiplyAddFollowsTheRationalRule : Prop :=
  ∀ a b c : Lane, fma32 a b c = fma32Q a b c

/-- O32 (R11, R12, R81, R83). For every finite lane x (zero, subnormal or normal), round32 of its sign and its exact
magnitude is x: no subnormal is flushed and no exact result is perturbed. -/
def Obligations.FloatsRoundToThemselves : Prop :=
  ∀ x : Lane, isFinite x = true → round32 (signBit x) (magUnits x) 149 = x

/-- O33 (R82, R84, R85, R86, R87). For all lanes: fadd32 is a NaN iff an operand is a NaN or the operands are infinities
of opposite sign; fmul32 iff an operand is a NaN or the operation is 0 * inf; fma32 iff an operand is a NaN, the
product is 0 * inf, or an infinite product meets an infinity of the opposite sign; and a NaN result is a quiet NaN.
Nothing is said of its sign or payload. -/
def Obligations.NanResultsAreQuietAndOnlyWhereInvalid : Prop :=
  (∀ a b : Lane, isNaN (fadd32 a b) = true ↔
    isNaN a = true ∨ isNaN b = true ∨ (isInf a = true ∧ isInf b = true ∧ signBit a ≠ signBit b)) ∧
  (∀ a b : Lane, isNaN (fmul32 a b) = true ↔
    isNaN a = true ∨ isNaN b = true ∨ (isInf a = true ∧ isZero b = true) ∨ (isZero a = true ∧ isInf b = true)) ∧
  (∀ a b c : Lane, isNaN (fma32 a b c) = true ↔
    isNaN a = true ∨ isNaN b = true ∨ isNaN c = true ∨ (isInf a = true ∧ isZero b = true) ∨
    (isZero a = true ∧ isInf b = true) ∨
    ((isInf a = true ∨ isInf b = true) ∧ isInf c = true ∧ signBit c ≠ (signBit a ^^ signBit b))) ∧
  (∀ a b c : Lane, (isNaN (fadd32 a b) = true → isQNaN (fadd32 a b) = true) ∧
    (isNaN (fmul32 a b) = true → isQNaN (fmul32 a b) = true) ∧
    (isNaN (fma32 a b c) = true → isQNaN (fma32 a b c) = true))

/-- O34 (R92). fmul32(0x3F800800, 0x3F800800) = 0x3F801000, fadd32(0x3F801000, 0xBF800000) = 0x3A000000, and
fma32(0x3F800800, 0x3F800800, 0xBF800000) = 0x3A000400. -/
def Obligations.FusedDiffersFromSeparatelyRounded : Prop :=
  fmul32 0x3F800800 0x3F800800 = 0x3F801000 ∧ fadd32 0x3F801000 0xBF800000 = 0x3A000000 ∧
  fma32 0x3F800800 0x3F800800 0xBF800000 = 0x3A000400

/-- O35 (R100, R101, R197). For all registers and every unfaulted state in which ra and rb are valid, VUADD writes (a +
b) mod 2^32 and VUACC writes a + (1 if bit 0 of b is clear, else 0) mod 2^32 in each lane of rd, with status OK;
nothing else changes. -/
def Obligations.VuaddAndVuaccComplete : Prop :=
  ∀ (rd ra rb : Reg) (s : State), Ready s [ra, rb] →
    CompletesWriting (.vuadd rd ra rb) s rd (fun k =>
      BitVec.ofNat 32 (((lane (s.readV ra) k).toNat + (lane (s.readV rb) k).toNat) % 2 ^ 32)) ∧
    CompletesWriting (.vuacc rd ra rb) s rd (fun k =>
      BitVec.ofNat 32 (((lane (s.readV ra) k).toNat + (if (lane (s.readV rb) k).getLsbD 0 then 0 else 1)) % 2 ^ 32))

/-- O36 (R102). For all registers with Vt distinct from Va and every state in which both can execute and Vone holds 1 in
every lane, VUACC Vd, Va, Vb and the sequence VANDN Vt, Vone, Vb; VUADD Vd, Va, Vt write the same value to Vd. -/
def Obligations.VuaccEqualsAndnThenAdd : Prop :=
  ∀ (vd va vb vone vt : Reg) (s : State), Ready s [va, vb, vone] → vt ≠ va →
    (∀ k, lane (s.readV vone) k = 1#32) →
    ∃ t u w, exec (.vuacc vd va vb) s = .next t ∧ exec (.vandn vt vone vb) s = .next u ∧
      exec (.vuadd vd va vt) u = .next w ∧ w.readV vd = t.readV vd

/-- O37 (R101, R103, R110). For all registers with M distinct from C and every unfaulted state in which M, C and X are
valid, the two commands complete and every lane of (M, C) goes to escapeStep of its old value and the lane of X: the
mask becomes m | x, the count c + (1 & ~(m | x)). -/
def Obligations.EscapeStepActsOnEveryLane : Prop :=
  ∀ (m c x : Reg) (s : State), Ready s [m, c, x] → m ≠ c →
    ∃ t u, exec (.vor m m x) s = .next t ∧ exec (.vuacc c c m) t = .next u ∧
      ∀ k, (lane (u.readV m) k, lane (u.readV c) k) =
        escapeStep (lane (s.readV m) k, lane (s.readV c) k) (lane (s.readV x) k)

/-- O38 (R103). For every lane and every sequence of X lanes: every mask bit once 1 stays 1; once bit 0 of the mask is 1
the count never changes; while the mask stays all-zero the count rises by one per step modulo 2^32; and if every X
is all-ones or all-zero, then from mask 0 and count 0 the mask is all-ones or all-zero and the count is the number
of steps before the first all-ones X, or of all steps if there is none, modulo 2^32. -/
def Obligations.EscapeStateIsMonotonicAndCounts : Prop :=
  (∀ (xs : List Lane) (m c : Lane), m &&& (xs.foldl escapeStep (m, c)).1 = m) ∧
  (∀ (xs : List Lane) (m c : Lane), m.getLsbD 0 = true → (xs.foldl escapeStep (m, c)).2 = c) ∧
  (∀ (xs : List Lane) (m c : Lane), (xs.foldl escapeStep (m, c)).1 = 0#32 →
    (xs.foldl escapeStep (m, c)).2 = c + BitVec.ofNat 32 xs.length) ∧
  (∀ xs : List Lane, (∀ x ∈ xs, x = zero32 ∨ x = ones32) →
    ((xs.foldl escapeStep (0#32, 0#32)).1 = zero32 ∨ (xs.foldl escapeStep (0#32, 0#32)).1 = ones32) ∧
    (xs.foldl escapeStep (0#32, 0#32)).2 = BitVec.ofNat 32 (xs.takeWhile (· == zero32)).length)

/-- O39 (R110, R111, R112, R197). For all registers and every unfaulted state in which ra and rb are valid, VOR, VANDN
and VAND complete with status OK; rd holds the 256-bit a | b, a & ~b, a & b of the old sources; nothing else
changes. -/
def Obligations.BitwiseCommandsComplete : Prop :=
  ∀ (rd ra rb : Reg) (s : State), Ready s [ra, rb] →
    CompletesWriting (.vor rd ra rb) s rd (lane (s.readV ra ||| s.readV rb)) ∧
    CompletesWriting (.vandn rd ra rb) s rd (lane (s.readV ra &&& ~~~ s.readV rb)) ∧
    CompletesWriting (.vand rd ra rb) s rd (lane (s.readV ra &&& s.readV rb))

/-- O40 (R113). For all registers and every unfaulted state in which ra and rb are valid, VTESTZ answers (OK, t) and
sets Z = t, where t is 1 iff in every lane the AND of the operands is zero; every register, valid bit, the fault
record and every byte of memory are unchanged. -/
def Obligations.VtestzCompletes : Prop :=
  ∀ (ra rb : Reg) (s : State), Ready s [ra, rb] →
    ∃ t, exec (.vtestz ra rb) s = .next t ∧
      (t.z = true ↔ ∀ k, lane (s.readV ra) k &&& lane (s.readV rb) k = 0#32) ∧
      (∀ r, t.readV r = s.readV r) ∧ t.vv = s.vv ∧
      (t.faulted = s.faulted ∧ t.fcause = s.fcause ∧ t.fcmd = s.fcmd ∧ t.fxs = s.fxs) ∧
      SameMemory s t ∧ Answers s t ⟨.ok, t.z⟩ ∧ t.draws = s.draws

/-- O41 (R114). For all 256-bit a and b: VANDN(a, b) = VAND(a, ~b); VOR(VAND(a, b), VANDN(a, b)) = a; TestZ(a, b) = 1
iff VAND(a, b) = 0; TestZ(VANDN(a, b), b) = 1; and if every lane of a and b is all-zero or all-ones, so is every
lane of VOR, VAND and VANDN of them. -/
def Obligations.BitwiseIdentities : Prop :=
  (∀ a b : VReg,
    lanewise2 andnLane a b = lanewise2 andLane a (~~~ b) ∧
    lanewise2 orLane (lanewise2 andLane a b) (lanewise2 andnLane a b) = a ∧
    (testZ a b = true ↔ lanewise2 andLane a b = 0#256) ∧
    testZ (lanewise2 andnLane a b) b = true) ∧
  (∀ a b : VReg, (∀ k, lane a k = zero32 ∨ lane a k = ones32) → (∀ k, lane b k = zero32 ∨ lane b k = ones32) →
    ∀ k, (lane (lanewise2 orLane a b) k = zero32 ∨ lane (lanewise2 orLane a b) k = ones32) ∧
      (lane (lanewise2 andLane a b) k = zero32 ∨ lane (lanewise2 andLane a b) k = ones32) ∧
      (lane (lanewise2 andnLane a b) k = zero32 ∨ lane (lanewise2 andnLane a b) k = ones32))

/-- O42 (R41, R42, R45, R48, R120). For every unfaulted state in which ra is valid, xs is a multiple of 4, at most 2^64
- 32, and all eight words are writable, VST answers with status OK; byte xs + 4i + j holds bits 8j+7..8j of lane i;
every byte outside the 32 reads as before; every register and status output is unchanged. -/
def Obligations.AdmittedStoreWritesThirtyTwoBytes : Prop :=
  ∀ (ra : Reg) (s : State), Ready s [ra] → s.cmd.xs.toNat % 4 = 0 → s.cmd.xs.toNat ≤ 2 ^ 64 - 32 →
    (∀ i : LaneIx, s.writableAt (s.cmd.xs.toNat + 4 * i.val) = true) →
    ∃ t, exec (.vst ra) s = .next t ∧
      (∀ i j, t.mem.read (byteAt s.cmd.xs.toNat i j) = some (storedByte (s.readV ra) i j)) ∧
      (∀ x, x < s.cmd.xs.toNat ∨ s.cmd.xs.toNat + 32 ≤ x → t.mem.read x = s.mem.read x) ∧
      SameUnit s t ∧ (∃ z, Answers s t ⟨.ok, z⟩) ∧ t.draws = s.draws

/-- O43 (R43, R44, R120, R178). For every unfaulted state in which ra is valid: if xs is no multiple of 4, VST enters
STORE_MISALIGNED; if it is and xs > 2^64 - 32, VST enters STORE_ACCESS; no byte of memory and no register changes. -/
def Obligations.MisalignedOrWrappingStoreWritesNothing : Prop :=
  ∀ (ra : Reg) (s : State), Ready s [ra] →
    (s.cmd.xs.toNat % 4 ≠ 0 →
      ∃ t, exec (.vst ra) s = .next t ∧ EntersFault s t .storeMisaligned ∧ SameMemory s t) ∧
    (s.cmd.xs.toNat % 4 = 0 → 2 ^ 64 - 32 < s.cmd.xs.toNat →
      ∃ t, exec (.vst ra) s = .next t ∧ EntersFault s t .storeAccess ∧ SameMemory s t)

/-- O44 (R49). For every unfaulted state in which ra is valid, xs is a multiple of 4 and at most 2^64 - 32, and some of
the eight words is not writable, VST enters STORE_ACCESS; each lane word that is writable holds its old four bytes
or the four bytes of its lane (which is a free value); every word that is not writable and every byte outside the 32
reads as before; and a misaligned or wrapping store writes nothing. -/
def Obligations.UnadmittedStoreLeavesOldOrNewWords : Prop :=
  (∀ (ra : Reg) (s : State), Ready s [ra] → s.cmd.xs.toNat % 4 = 0 → s.cmd.xs.toNat ≤ 2 ^ 64 - 32 →
    (∃ i : LaneIx, s.writableAt (s.cmd.xs.toNat + 4 * i.val) = false) →
    ∃ t, exec (.vst ra) s = .next t ∧ EntersFault s t .storeAccess ∧
      (∀ i, (∀ j, t.mem.read (byteAt s.cmd.xs.toNat i j) = s.mem.read (byteAt s.cmd.xs.toNat i j)) ∨
        (s.writableAt (s.cmd.xs.toNat + 4 * i.val) = true ∧
          ∀ j, t.mem.read (byteAt s.cmd.xs.toNat i j) = some (storedByte (s.readV ra) i j))) ∧
      (∀ x, x < s.cmd.xs.toNat ∨ s.cmd.xs.toNat + 32 ≤ x → t.mem.read x = s.mem.read x)) ∧
  (∀ (ra : Reg) (s t : State), Ready s [ra] → s.cmd.xs.toNat % 4 ≠ 0 ∨ 2 ^ 64 - 32 < s.cmd.xs.toNat →
    exec (.vst ra) s = .next t → SameMemory s t)

/-- O45 (R47, R48). For every order of the eight lanes, every memory, address, vector and selection of lanes, every byte
reads the same after the writes in that order as after the writes in index order, which the model uses (log 8). -/
def Obligations.OrderOfLaneWritesIsUnobservable : Prop :=
  ∀ (order : List LaneIx) (m : Memory) (a : Nat) (v : VReg) (sel : LaneIx → Bool), order.Perm laneIxs →
    ∀ x, (m.storeLanes a v sel order).read x = (m.storeLanes a v sel laneIxs).read x

/-- O46 (R53). For every canonical memory and two stores of any vectors to ranges inside the address space that share no
byte, the memory after both is the same list in either order. -/
def Obligations.DisjointStoresCommute : Prop :=
  ∀ (m : Memory) (a b : Nat) (v w : VReg), m.wf → a + 32 ≤ 2 ^ 64 → b + 32 ≤ 2 ^ 64 → (a + 32 ≤ b ∨ b + 32 ≤ a) →
    (m.storeLanes a v (fun _ => true) laneIxs).storeLanes b w (fun _ => true) laneIxs =
      (m.storeLanes b w (fun _ => true) laneIxs).storeLanes a v (fun _ => true) laneIxs

/-- O47 (R67, R121, R172). For every rd and every unfaulted state, VBCAST completes with status OK; every lane of rd is
bits 31..0 of xs, bits 63..32 are ignored; nothing else changes. -/
def Obligations.VbcastCompletes : Prop :=
  ∀ (rd : Reg) (s : State), s.faulted = false →
    CompletesWriting (.vbcast rd) s rd fun _ => s.cmd.xs.extractLsb' 0 32

/-- O48 (R66, R67, R122). For every rd, every lane number and every unfaulted state in which rd is valid, VINS completes
with status OK; the named lane of rd is bits 31..0 of xs and every other lane its old value; nothing else changes. -/
def Obligations.VinsCompletes : Prop :=
  ∀ (rd : Reg) (k : LaneIx) (s : State), Ready s [rd] →
    CompletesWriting (.vins rd k) s rd fun i => if i = k then s.cmd.xs.extractLsb' 0 32 else lane (s.readV rd) i

/-- O49 (R130, R133, R140, R141, R142, R153, R154). For all registers and every unfaulted state with valid sources, the
ten commands VCMP.EQ_OQ/OS, LT_OS/OQ, LE_OS/OQ, GE_OS/OQ, GT_OS/OQ complete; each lane of rd is all-ones if the
relation holds and neither lane is a NaN, all-zero otherwise; nothing else changes. -/
def Obligations.OrderedRelationsComplete : Prop :=
  ∀ (rd ra rb : Reg) (s : State), Ready s [ra, rb] →
    CompletesComparing (.vcmpEqOq rd ra rb) s rd ra rb (fun a b => relEq a b && !nanPair a b) ∧
    CompletesComparing (.vcmpEqOs rd ra rb) s rd ra rb (fun a b => relEq a b && !nanPair a b) ∧
    CompletesComparing (.vcmpLtOs rd ra rb) s rd ra rb (fun a b => relLt a b && !nanPair a b) ∧
    CompletesComparing (.vcmpLtOq rd ra rb) s rd ra rb (fun a b => relLt a b && !nanPair a b) ∧
    CompletesComparing (.vcmpLeOs rd ra rb) s rd ra rb (fun a b => relLe a b && !nanPair a b) ∧
    CompletesComparing (.vcmpLeOq rd ra rb) s rd ra rb (fun a b => relLe a b && !nanPair a b) ∧
    CompletesComparing (.vcmpGeOs rd ra rb) s rd ra rb (fun a b => relGe a b && !nanPair a b) ∧
    CompletesComparing (.vcmpGeOq rd ra rb) s rd ra rb (fun a b => relGe a b && !nanPair a b) ∧
    CompletesComparing (.vcmpGtOs rd ra rb) s rd ra rb (fun a b => relGt a b && !nanPair a b) ∧
    CompletesComparing (.vcmpGtOq rd ra rb) s rd ra rb (fun a b => relGt a b && !nanPair a b)

/-- O50 (R130, R133, R144, R145, R146, R149, R150). For all registers and every unfaulted state with valid sources, the
ten commands VCMP.NEQ_UQ/US, NLT_US/UQ, NLE_US/UQ, NGE_US/UQ, NGT_US/UQ complete; each lane of rd is all-ones if the
relation does not hold or a lane is a NaN, all-zero otherwise; nothing else changes. -/
def Obligations.UnorderedNegatedRelationsComplete : Prop :=
  ∀ (rd ra rb : Reg) (s : State), Ready s [ra, rb] →
    CompletesComparing (.vcmpNeqUq rd ra rb) s rd ra rb (fun a b => !relEq a b || nanPair a b) ∧
    CompletesComparing (.vcmpNeqUs rd ra rb) s rd ra rb (fun a b => !relEq a b || nanPair a b) ∧
    CompletesComparing (.vcmpNltUs rd ra rb) s rd ra rb (fun a b => !relLt a b || nanPair a b) ∧
    CompletesComparing (.vcmpNltUq rd ra rb) s rd ra rb (fun a b => !relLt a b || nanPair a b) ∧
    CompletesComparing (.vcmpNleUs rd ra rb) s rd ra rb (fun a b => !relLe a b || nanPair a b) ∧
    CompletesComparing (.vcmpNleUq rd ra rb) s rd ra rb (fun a b => !relLe a b || nanPair a b) ∧
    CompletesComparing (.vcmpNgeUs rd ra rb) s rd ra rb (fun a b => !relGe a b || nanPair a b) ∧
    CompletesComparing (.vcmpNgeUq rd ra rb) s rd ra rb (fun a b => !relGe a b || nanPair a b) ∧
    CompletesComparing (.vcmpNgtUs rd ra rb) s rd ra rb (fun a b => !relGt a b || nanPair a b) ∧
    CompletesComparing (.vcmpNgtUq rd ra rb) s rd ra rb (fun a b => !relGt a b || nanPair a b)

/-- O51 (R130, R133, R143, R147, R148, R152). For all registers and every unfaulted state with valid sources, the eight
commands VCMP.UNORD_Q/S, ORD_Q/S, EQ_UQ/US, NEQ_OQ/OS complete; each lane of rd is all-ones iff a lane is a NaN; no
lane is a NaN; the lanes are equal or one is a NaN; they are not equal and none is a NaN; nothing else changes. -/
def Obligations.OrderednessAndMixedModesComplete : Prop :=
  ∀ (rd ra rb : Reg) (s : State), Ready s [ra, rb] →
    CompletesComparing (.vcmpUnordQ rd ra rb) s rd ra rb (fun a b => isNaN a || isNaN b) ∧
    CompletesComparing (.vcmpUnordS rd ra rb) s rd ra rb (fun a b => isNaN a || isNaN b) ∧
    CompletesComparing (.vcmpOrdQ rd ra rb) s rd ra rb (fun a b => !(isNaN a || isNaN b)) ∧
    CompletesComparing (.vcmpOrdS rd ra rb) s rd ra rb (fun a b => !(isNaN a || isNaN b)) ∧
    CompletesComparing (.vcmpEqUq rd ra rb) s rd ra rb (fun a b => relEq a b || nanPair a b) ∧
    CompletesComparing (.vcmpEqUs rd ra rb) s rd ra rb (fun a b => relEq a b || nanPair a b) ∧
    CompletesComparing (.vcmpNeqOq rd ra rb) s rd ra rb (fun a b => !relEq a b && !nanPair a b) ∧
    CompletesComparing (.vcmpNeqOs rd ra rb) s rd ra rb (fun a b => !relEq a b && !nanPair a b)

/-- O52 (R130, R137, R151, R155). For all registers and every unfaulted state, whatever the source registers hold and
whether or not they are valid, VCMP.FALSE_OQ and FALSE_OS complete with every lane of rd all-zero, VCMP.TRUE_UQ and
TRUE_US with every lane all-ones; nothing else changes. -/
def Obligations.ConstantModesReadNoRegister : Prop :=
  ∀ (rd ra rb : Reg) (s : State), s.faulted = false →
    CompletesWriting (.vcmpFalseOq rd ra rb) s rd (fun _ => zero32) ∧
    CompletesWriting (.vcmpFalseOs rd ra rb) s rd (fun _ => zero32) ∧
    CompletesWriting (.vcmpTrueUq rd ra rb) s rd (fun _ => ones32) ∧
    CompletesWriting (.vcmpTrueUs rd ra rb) s rd (fun _ => ones32)

/-- O53 (R135). For every m in 0..15, all registers and every state, exec of VCMP with mode m and with mode m + 16
answer the same next state, results and faults alike. -/
def Obligations.SignalingAttributeHasNoEffect : Prop :=
  ∀ (m : Fin 16) (rd ra rb : Reg) (s : State),
    exec (vcmpMode ⟨m.val, by omega⟩ rd ra rb) s = exec (vcmpMode ⟨m.val + 16, by omega⟩ rd ra rb) s

/-- O54 (R136). For every unfaulted state and every pending word with opcode 0x20, rc = 0 and imm8 in 32..255, valid
registers or not, the step enters INVALID_MODE: no register, valid bit, Z or byte of memory changes; and exec of
every VCMP.INVALID_MODE instruction enters it in every unfaulted state. -/
def Obligations.InvalidModeFaults : Prop :=
  (∀ (s : State) (c : Command) (rest : List HostAction) (rd ra rb : Reg) (mode : BitVec 8),
    s.faulted = false → s.inbox = .command c :: rest → c.w = packWord 0x20 rd ra rb 0 mode → 32 ≤ mode.toNat →
    ∃ t, step s = .next t ∧ EntersFault { s with inbox := rest, cmd := c } t .invalidMode ∧ SameMemory s t) ∧
  (∀ (s : State) (rd ra rb : Reg) (mode : BitVec 8), s.faulted = false →
    ∃ t, exec (.vcmpInvalidMode rd ra rb mode) s = .next t ∧ EntersFault s t .invalidMode ∧ SameMemory s t)

/-- O55 (R11, R131, R132). For finite lanes, lt, eq, le, gt, ge hold iff the rational values compare so; -inf is below
every finite value and +inf, every finite value below +inf, each infinity equal to itself; exactly one of lt, eq, gt
holds of two lanes that are no NaNs; two such lanes are equal iff bit-identical or both zeros; of two such lanes,
infinities among them, le is lt or eq, gt is lt of the swapped pair and ge is le of the swapped pair; with a NaN all
five are false. -/
def Obligations.RelationsFollowTheExactValues : Prop :=
  (∀ a b : Lane, isFinite a = true → isFinite b = true →
    (relLt a b = true ↔ valQ a < valQ b) ∧ (relEq a b = true ↔ valQ a = valQ b) ∧
    (relLe a b = true ↔ valQ a ≤ valQ b) ∧ (relGt a b = true ↔ valQ b < valQ a) ∧
    (relGe a b = true ↔ valQ b ≤ valQ a)) ∧
  (∀ x : Lane, isFinite x = true → relLt (infinity true) x = true ∧ relLt x (infinity false) = true) ∧
  (relLt (infinity true) (infinity false) = true ∧ ∀ s, relEq (infinity s) (infinity s) = true) ∧
  (∀ a b : Lane, nanPair a b = false →
    (relLt a b = true ∧ relEq a b = false ∧ relGt a b = false) ∨
    (relLt a b = false ∧ relEq a b = true ∧ relGt a b = false) ∨
    (relLt a b = false ∧ relEq a b = false ∧ relGt a b = true)) ∧
  (∀ a b : Lane, nanPair a b = false → (relEq a b = true ↔ a = b ∨ (isZero a = true ∧ isZero b = true))) ∧
  (∀ a b : Lane, nanPair a b = false →
    relLe a b = (relLt a b || relEq a b) ∧ relGt a b = relLt b a ∧ relGe a b = relLe b a) ∧
  (∀ a b : Lane, nanPair a b = true →
    relEq a b = false ∧ relLt a b = false ∧ relLe a b = false ∧ relGt a b = false ∧ relGe a b = false)

/-- O56 (R156). Every pair of lanes is in exactly one of the classes UN, LT, EQ, GT; and for every mode m of 0..31, all
registers and every unfaulted state with valid sources, VCMP completes and lane k of rd is all-ones iff bit m mod 16
of the class word (LT 0x9696, EQ 0xA5A5, GT 0xF0F0, UN 0x8778) of the source lanes is 1, all-zero otherwise. -/
def Obligations.FourClassTable : Prop :=
  (∀ a b : Lane,
    (nanPair a b = true ∧ relLt a b = false ∧ relEq a b = false ∧ relGt a b = false) ∨
    (nanPair a b = false ∧ relLt a b = true ∧ relEq a b = false ∧ relGt a b = false) ∨
    (nanPair a b = false ∧ relLt a b = false ∧ relEq a b = true ∧ relGt a b = false) ∨
    (nanPair a b = false ∧ relLt a b = false ∧ relEq a b = false ∧ relGt a b = true)) ∧
  (∀ (m : Fin 32) (rd ra rb : Reg) (s : State), Ready s [ra, rb] →
    CompletesComparing (vcmpMode m rd ra rb) s rd ra rb fun a b => (classWord a b).getLsbD (m.val % 16))

/-- O57 (R157). For every k in 0..15 and all lanes, the base predicate k xor 4 is the negation of the base predicate k;
and for every mode m, all registers and every unfaulted state with valid sources, VCMP with mode m xor 4 writes to
rd the bitwise complement of what mode m writes. -/
def Obligations.ModesFourApartAreComplements : Prop :=
  (∀ (k : Fin 16) (a b : Lane),
    (basePredicates[k.val ^^^ 4]?).map (fun p => p a b) = (basePredicates[k.val]?).map (fun p => !p a b)) ∧
  (∀ (m : Fin 32) (rd ra rb : Reg) (s : State), Ready s [ra, rb] →
    ∃ t u, exec (vcmpMode m rd ra rb) s = .next t ∧ exec (vcmpMode (m ^^^ 4) rd ra rb) s = .next u ∧
      u.readV rd = ~~~ t.readV rd)

/-- O58 (R158). For all lanes a and b: P14(a, b) = P1(b, a), P13(a, b) = P2(b, a), P9(a, b) = P6(b, a), P10(a, b) =
P5(b, a), and P0, P3, P4, P7, P8, P11, P12, P15 are symmetric. -/
def Obligations.SwappedOperands : Prop :=
  ∀ a b : Lane, p14 a b = p1 b a ∧ p13 a b = p2 b a ∧ p9 a b = p6 b a ∧ p10 a b = p5 b a ∧
    p0 a b = p0 b a ∧ p3 a b = p3 b a ∧ p4 a b = p4 b a ∧ p7 a b = p7 b a ∧ p8 a b = p8 b a ∧
    p11 a b = p11 b a ∧ p12 a b = p12 b a ∧ p15 a b = p15 b a

/-- O59 (R159). For all lanes a and b of which at least one is a NaN, quiet or signaling, either sign, any payload: P3,
P4, P5, P6, P8, P9, P10, P15 are true and P0, P1, P2, P7, P11, P12, P13, P14 are false. -/
def Obligations.NanPairsDependOnTheModeAlone : Prop :=
  ∀ a b : Lane, isNaN a = true ∨ isNaN b = true →
    (p3 a b = true ∧ p4 a b = true ∧ p5 a b = true ∧ p6 a b = true ∧ p8 a b = true ∧ p9 a b = true ∧
      p10 a b = true ∧ p15 a b = true) ∧
    (p0 a b = false ∧ p1 a b = false ∧ p2 a b = false ∧ p7 a b = false ∧ p11 a b = false ∧ p12 a b = false ∧
      p13 a b = false ∧ p14 a b = false)

/-- O60 (R190, R191, R45). From every state with a reset during the command c pending, the step answers no response,
clears VV, Z and the fault record and leaves Writable unchanged; every byte outside the 32 at xs reads as before;
each lane word holds its old four bytes or, if c is a VST of ra and the word is writable, the four bytes of its lane
of V[ra]; and memory is unchanged if the unit was faulted, or c is no VST, or its source is not valid, or its
address is misaligned or beyond 2^64 - 32. R191 leaves such a reset outside the defined behaviour and gives only the
unit state (as after R190) and the old or new lane words; that the interrupted command gets no response, and that
memory is unchanged where the command would be refused or fault before writing, are the DESIGN CHOICE of log 11, for
which no rule is cited. -/
def Obligations.ResetDuringACommand : Prop :=
  ∀ (s : State) (c : Command) (rest : List HostAction), s.inbox = .resetDuring c :: rest →
    ∃ t, step s = .next t ∧ t.statusOutputs = ⟨false, 0x0000, false, 0, 0x00000000, 0x0000000000000000⟩ ∧
      t.writable = s.writable ∧ t.responses = s.responses ∧ t.inbox = rest ∧
      (∀ x, x < c.xs.toNat ∨ c.xs.toNat + 32 ≤ x → t.mem.read x = s.mem.read x) ∧
      (∀ i, (∀ j, t.mem.read (byteAt c.xs.toNat i j) = s.mem.read (byteAt c.xs.toNat i j)) ∨
        ∃ ra, decode c.w = .ok (.vst ra) ∧ s.writableAt (c.xs.toNat + 4 * i.val) = true ∧
          ∀ j, t.mem.read (byteAt c.xs.toNat i j) = some (storedByte (s.readV ra) i j)) ∧
      (s.faulted = true ∨ (∀ ra, decode c.w = .ok (.vst ra) → s.valid ra = false) ∨ c.xs.toNat % 4 ≠ 0 ∨
        2 ^ 64 - 32 < c.xs.toNat → SameMemory s t)
end

