-- ==== Sys2Proof/Laws/Encoding.lean ====
section
/-! SUPPORT. The fields of a packed word, and packed words under a mask. -/

namespace Sys2Proof

variable (op : BitVec 8) (rd ra rb rc : Reg) (imm : BitVec 8)

/-- The number a register field holds is the register's. -/
@[simp] theorem regOf_ofNat (r : Reg) : regOf (BitVec.ofNat 4 r) = r := by
  apply Fin.ext
  simp only [regOf, BitVec.toNat_ofNat]
  have := r.isLt
  omega

/-- The bits of a field that lies inside the left part of an appended word. -/
theorem extract_append_left {m n : Nat} (x : BitVec m) (y : BitVec n) (k w : Nat) :
    (x ++ y).extractLsb' (k + n) w = x.extractLsb' k w := by
  ext j hj
  simp only [BitVec.getElem_extractLsb', BitVec.getLsbD_append]
  rw [if_neg (by omega)]
  congr 1
  omega

/-- The bits of the right part of an appended word. -/
theorem extract_append_right {m n : Nat} (x : BitVec m) (y : BitVec n) : (x ++ y).extractLsb' 0 n = y := by
  ext j hj
  simp [BitVec.getElem_extractLsb', BitVec.getLsbD_append, hj]

/-- The fields of a packed word (R61). -/
@[simp] theorem opcodeField_packWord : opcodeField (packWord op rd ra rb rc imm) = op := by
  unfold opcodeField packWord
  refine (extract_append_left _ _ 16 8).trans ((extract_append_left _ _ 12 8).trans
    ((extract_append_left _ _ 8 8).trans ((extract_append_left _ _ 4 8).trans
      ((extract_append_left _ _ 0 8).trans BitVec.extractLsb'_eq_self))))

@[simp] theorem rdField_packWord : rdField (packWord op rd ra rb rc imm) = BitVec.ofNat 4 rd := by
  unfold rdField packWord
  exact (extract_append_left _ _ 12 4).trans ((extract_append_left _ _ 8 4).trans
    ((extract_append_left _ _ 4 4).trans ((extract_append_left _ _ 0 4).trans (extract_append_right _ _))))

@[simp] theorem raField_packWord : raField (packWord op rd ra rb rc imm) = BitVec.ofNat 4 ra := by
  unfold raField packWord
  exact (extract_append_left _ _ 8 4).trans ((extract_append_left _ _ 4 4).trans
    ((extract_append_left _ _ 0 4).trans (extract_append_right _ _)))

@[simp] theorem rbField_packWord : rbField (packWord op rd ra rb rc imm) = BitVec.ofNat 4 rb := by
  unfold rbField packWord
  exact (extract_append_left _ _ 4 4).trans ((extract_append_left _ _ 0 4).trans (extract_append_right _ _))

@[simp] theorem rcField_packWord : rcField (packWord op rd ra rb rc imm) = BitVec.ofNat 4 rc := by
  unfold rcField packWord
  exact (extract_append_left _ _ 0 4).trans (extract_append_right _ _)

@[simp] theorem imm8Field_packWord : imm8Field (packWord op rd ra rb rc imm) = imm := by
  unfold imm8Field packWord
  exact extract_append_right _ _

/-- AND of appended words. -/
theorem and_append {m n : Nat} (x x' : BitVec m) (y y' : BitVec n) : (x ++ y) &&& (x' ++ y') = (x &&& x') ++ (y &&& y') := by
  ext j hj
  simp only [BitVec.getElem_and, BitVec.getElem_append]
  split <;> rfl

/-- A packed word under a mask given field by field. -/
theorem packWord_and (mop : BitVec 8) (mrd mra mrb mrc : BitVec 4) (mimm : BitVec 8) :
    packWord op rd ra rb rc imm &&& (mop ++ mrd ++ mra ++ mrb ++ mrc ++ mimm) =
      (op &&& mop) ++ (BitVec.ofNat 4 rd &&& mrd) ++ (BitVec.ofNat 4 ra &&& mra) ++ (BitVec.ofNat 4 rb &&& mrb) ++
        (BitVec.ofNat 4 rc &&& mrc) ++ (imm &&& mimm) := by
  refine (and_append _ _ imm mimm).trans (congrArg (· ++ _) ?_)
  refine (and_append _ _ _ mrc).trans (congrArg (· ++ _) ?_)
  refine (and_append _ _ _ mrb).trans (congrArg (· ++ _) ?_)
  refine (and_append _ _ _ mra).trans (congrArg (· ++ _) ?_)
  exact and_append _ _ _ mrd

end Sys2Proof
end

