-- ==== Sys2Proof/Laws/Memory.lean ====
section
/-! SUPPORT. Reading after writing, and the canonical form of memory. -/

namespace Sys2Proof.Machine

/-- Reading after a write of one byte. -/
theorem Memory.read_write (m : Memory) (a x : Nat) (v : Byte) :
    (m.write a v).read x = if x = a then some v else m.read x := by
  induction m with
  | nil => simp [Memory.write, Memory.read, eq_comm]
  | cons p m ih =>
    obtain ⟨b, w⟩ := p
    simp only [Memory.write]
    split
    · simp [Memory.read, eq_comm]
    · split
      · next h =>
        subst h
        by_cases hx : x = a
        · simp [Memory.read, hx]
        · simp [Memory.read, hx, Ne.symm hx]
      · next h =>
        simp only [Memory.read, ih]
        by_cases hb : b = x
        · simp [hb, show x ≠ a by omega]
        · simp [hb]

/-- Reading after a write of several bytes. -/
theorem Memory.read_writeBytes (vs : List Byte) (m : Memory) (a x : Nat) :
    (m.writeBytes a vs).read x = if a ≤ x ∧ x < a + vs.length then vs[x - a]? else m.read x := by
  induction vs generalizing m a with
  | nil => simp only [Memory.writeBytes, List.length_nil]; rw [if_neg (by omega)]
  | cons v vs ih =>
    simp only [Memory.writeBytes, ih, Memory.read_write, List.length_cons]
    by_cases h1 : x = a
    · subst h1
      rw [if_neg (by omega), if_pos rfl, if_pos (by omega)]
      simp
    · rw [if_neg h1]
      by_cases h2 : a + 1 ≤ x ∧ x < a + 1 + vs.length
      · rw [if_pos h2, if_pos (by omega), show x - a = x - (a + 1) + 1 by omega, List.getElem?_cons_succ]
      · rw [if_neg h2, if_neg (by omega)]

/-- The bytes of a lane word (R41). -/
theorem bytesLE_getElem? (v : Lane) (j : Nat) (hj : j < 4) : (bytesLE v)[j]? = some (v.extractLsb' (8 * j) 8) := by
  obtain rfl | rfl | rfl | rfl : j = 0 ∨ j = 1 ∨ j = 2 ∨ j = 3 := by omega
  all_goals rfl

/-- Reading after a write of a lane word (R41). -/
theorem Memory.read_writeLane (m : Memory) (a x : Nat) (v : Lane) :
    (m.writeLane a v).read x = if a ≤ x ∧ x < a + 4 then some (v.extractLsb' (8 * (x - a)) 8) else m.read x := by
  rw [Memory.writeLane, Memory.read_writeBytes]
  simp only [show (bytesLE v).length = 4 from rfl]
  split
  · exact bytesLE_getElem? v _ (by omega)
  · rfl

/-- Reading after the lane-word writes of a store: the lane word a byte belongs to, if the store writes it (R42). -/
theorem Memory.read_storeLanes (order : List LaneIx) (m : Memory) (a x : Nat) (v : VReg) (sel : LaneIx → Bool)
    (i : LaneIx) (j : Fin 4) (hx : x = a + 4 * i.val + j.val) :
    (m.storeLanes a v sel order).read x =
      if i ∈ order ∧ sel i = true then some ((lane v i).extractLsb' (8 * j.val) 8) else m.read x := by
  have hj := j.isLt
  unfold Memory.storeLanes
  induction order generalizing m with
  | nil => simp
  | cons k order ih =>
    rw [List.foldl_cons, ih]
    by_cases hi : i ∈ order ∧ sel i = true
    · rw [if_pos hi, if_pos ⟨List.mem_cons_of_mem _ hi.1, hi.2⟩]
    · rw [if_neg hi]
      by_cases hk : i = k
      · subst hk
        by_cases hs : sel i = true
        · rw [if_pos hs, Memory.read_writeLane, if_pos (by omega), if_pos ⟨List.mem_cons_self, hs⟩]
          congr 2; omega
        · rw [if_neg hs, if_neg (fun h => hs h.2)]
      · have hv : i.val ≠ k.val := fun e => hk (Fin.ext e)
        have hr : (if sel k = true then m.writeLane (a + 4 * k.val) (lane v k) else m).read x = m.read x := by
          split
          · rw [Memory.read_writeLane, if_neg (by omega)]
          · rfl
        rw [hr, if_neg]
        rintro ⟨h1, h2⟩
        rcases List.mem_cons.1 h1 with h | h
        · exact hk h
        · exact hi ⟨h, h2⟩

/-- A store leaves every byte outside its 32 bytes as it was (R42). -/
theorem Memory.read_storeLanes_outside (order : List LaneIx) (m : Memory) (a x : Nat) (v : VReg) (sel : LaneIx → Bool)
    (hx : x < a ∨ a + 32 ≤ x) : (m.storeLanes a v sel order).read x = m.read x := by
  unfold Memory.storeLanes
  induction order generalizing m with
  | nil => rfl
  | cons k order ih =>
    rw [List.foldl_cons, ih]
    have hk := k.isLt
    split
    · rw [Memory.read_writeLane, if_neg (by omega)]
    · rfl

theorem mem_laneIxs (i : LaneIx) : i ∈ laneIxs := by
  revert i; decide

/-- What a write of one byte lists. -/
theorem Memory.mem_write {m : Memory} {a : Nat} {v : Byte} {p : Host.Cell} (h : p ∈ m.write a v) : p = (a, v) ∨ p ∈ m := by
  induction m with
  | nil => simpa [Memory.write] using h
  | cons q m ih =>
    obtain ⟨b, w⟩ := q
    simp only [Memory.write] at h
    split at h
    · simpa using h
    · split at h
      · next e => subst e; rcases List.mem_cons.1 h with h | h
                  · exact .inl h
                  · exact .inr (List.mem_cons_of_mem _ h)
      · rcases List.mem_cons.1 h with h | h
        · exact .inr (by simp [h])
        · exact (ih h).imp id (List.mem_cons_of_mem _)

/-- A write of one byte keeps the canonical form. -/
theorem Memory.wf_write {m : Memory} {a : Nat} (v : Byte) (h : m.wf) (ha : a < 2 ^ 64) : (m.write a v).wf := by
  refine ⟨?_, fun p hp => (Memory.mem_write hp).elim (fun e => e ▸ ha) (h.2 p)⟩
  obtain ⟨h, -⟩ := h
  induction m with
  | nil => simp [Memory.write]
  | cons q m ih =>
    obtain ⟨b, w⟩ := q
    obtain ⟨h1, h2⟩ := List.pairwise_cons.1 h
    simp only [Memory.write]
    split
    · next hab =>
      refine List.pairwise_cons.2 ⟨fun p hp => ?_, h⟩
      rcases List.mem_cons.1 hp with rfl | hp
      · exact hab
      · exact Nat.lt_trans hab (h1 p hp)
    · split
      · next e => subst e; exact List.pairwise_cons.2 ⟨h1, h2⟩
      · next hlt hne =>
        refine List.pairwise_cons.2 ⟨fun p hp => ?_, ih h2⟩
        rcases Memory.mem_write hp with rfl | hp
        · show b < a
          omega
        · exact h1 p hp

theorem Memory.wf_writeBytes (vs : List Byte) {m : Memory} {a : Nat} (h : m.wf) (ha : a + vs.length ≤ 2 ^ 64) :
    (m.writeBytes a vs).wf := by
  induction vs generalizing m a with
  | nil => exact h
  | cons v vs ih =>
    simp only [List.length_cons] at ha
    exact ih (Memory.wf_write v h (by omega)) (by omega)

/-- The lane-word writes of a store that does not wrap keep the canonical form. -/
theorem Memory.wf_storeLanes (order : List LaneIx) {m : Memory} {a : Nat} (v : VReg) (sel : LaneIx → Bool) (h : m.wf)
    (ha : a + 32 ≤ 2 ^ 64) : (m.storeLanes a v sel order).wf := by
  unfold Memory.storeLanes
  induction order generalizing m with
  | nil => exact h
  | cons k order ih =>
    have hk := k.isLt
    rw [List.foldl_cons]
    apply ih
    split
    · exact Memory.wf_writeBytes _ h (by rw [show (bytesLE _).length = 4 from rfl]; omega)
    · exact h

end Sys2Proof.Machine
end

