-- ==== Sys2Proof/Laws/State.lean ====
section
/-! SUPPORT. Each field of the state after each operation on the state: one lemma per field per operation, true by
definition. -/

namespace Sys2Proof.Machine

variable (s : State)

/-! ### The fields after writing a register -/

@[simp] theorem writeV_v (r : Reg) (x : VReg) : (s.writeV r x).v = s.v.set r.val x r.isLt := rfl
@[simp] theorem writeV_vv (r : Reg) (x : VReg) : (s.writeV r x).vv = s.vv ||| (1#16 <<< r.val) := rfl
@[simp] theorem writeV_z (r : Reg) (x : VReg) : (s.writeV r x).z = s.z := rfl
@[simp] theorem writeV_faulted (r : Reg) (x : VReg) : (s.writeV r x).faulted = s.faulted := rfl
@[simp] theorem writeV_fcause (r : Reg) (x : VReg) : (s.writeV r x).fcause = s.fcause := rfl
@[simp] theorem writeV_fcmd (r : Reg) (x : VReg) : (s.writeV r x).fcmd = s.fcmd := rfl
@[simp] theorem writeV_fxs (r : Reg) (x : VReg) : (s.writeV r x).fxs = s.fxs := rfl
@[simp] theorem writeV_mem (r : Reg) (x : VReg) : (s.writeV r x).mem = s.mem := rfl
@[simp] theorem writeV_writable (r : Reg) (x : VReg) : (s.writeV r x).writable = s.writable := rfl
@[simp] theorem writeV_cmd (r : Reg) (x : VReg) : (s.writeV r x).cmd = s.cmd := rfl
@[simp] theorem writeV_inbox (r : Reg) (x : VReg) : (s.writeV r x).inbox = s.inbox := rfl
@[simp] theorem writeV_responses (r : Reg) (x : VReg) : (s.writeV r x).responses = s.responses := rfl
@[simp] theorem writeV_draws (r : Reg) (x : VReg) : (s.writeV r x).draws = s.draws := rfl

/-! ### The fields after a response -/

@[simp] theorem respond_v (st : Status) (b : Bool) : (s.respond st b).v = s.v := rfl
@[simp] theorem respond_vv (st : Status) (b : Bool) : (s.respond st b).vv = s.vv := rfl
@[simp] theorem respond_z (st : Status) (b : Bool) : (s.respond st b).z = s.z := rfl
@[simp] theorem respond_faulted (st : Status) (b : Bool) : (s.respond st b).faulted = s.faulted := rfl
@[simp] theorem respond_fcause (st : Status) (b : Bool) : (s.respond st b).fcause = s.fcause := rfl
@[simp] theorem respond_fcmd (st : Status) (b : Bool) : (s.respond st b).fcmd = s.fcmd := rfl
@[simp] theorem respond_fxs (st : Status) (b : Bool) : (s.respond st b).fxs = s.fxs := rfl
@[simp] theorem respond_mem (st : Status) (b : Bool) : (s.respond st b).mem = s.mem := rfl
@[simp] theorem respond_writable (st : Status) (b : Bool) : (s.respond st b).writable = s.writable := rfl
@[simp] theorem respond_cmd (st : Status) (b : Bool) : (s.respond st b).cmd = s.cmd := rfl
@[simp] theorem respond_inbox (st : Status) (b : Bool) : (s.respond st b).inbox = s.inbox := rfl
@[simp] theorem respond_responses (st : Status) (b : Bool) : (s.respond st b).responses = s.responses ++ [⟨st, b⟩] := rfl
@[simp] theorem respond_draws (st : Status) (b : Bool) : (s.respond st b).draws = s.draws := rfl

/-! ### The fields after fault entry -/

@[simp] theorem raise_v (f : FaultCause) : (s.raise f).v = s.v := rfl
@[simp] theorem raise_vv (f : FaultCause) : (s.raise f).vv = s.vv := rfl
@[simp] theorem raise_z (f : FaultCause) : (s.raise f).z = s.z := rfl
@[simp] theorem raise_faulted (f : FaultCause) : (s.raise f).faulted = true := rfl
@[simp] theorem raise_fcause (f : FaultCause) : (s.raise f).fcause = f.code := rfl
@[simp] theorem raise_fcmd (f : FaultCause) : (s.raise f).fcmd = s.cmd.w := rfl
@[simp] theorem raise_fxs (f : FaultCause) : (s.raise f).fxs = s.cmd.xs := rfl
@[simp] theorem raise_mem (f : FaultCause) : (s.raise f).mem = s.mem := rfl
@[simp] theorem raise_writable (f : FaultCause) : (s.raise f).writable = s.writable := rfl
@[simp] theorem raise_cmd (f : FaultCause) : (s.raise f).cmd = s.cmd := rfl
@[simp] theorem raise_inbox (f : FaultCause) : (s.raise f).inbox = s.inbox := rfl
@[simp] theorem raise_responses (f : FaultCause) : (s.raise f).responses = s.responses ++ [⟨.fault, false⟩] := rfl
@[simp] theorem raise_draws (f : FaultCause) : (s.raise f).draws = s.draws := rfl

/-! ### The fields after a refusal -/

@[simp] theorem refuse_v : s.refuse.v = s.v := rfl
@[simp] theorem refuse_vv : s.refuse.vv = s.vv := rfl
@[simp] theorem refuse_z : s.refuse.z = s.z := rfl
@[simp] theorem refuse_faulted : s.refuse.faulted = s.faulted := rfl
@[simp] theorem refuse_fcause : s.refuse.fcause = s.fcause := rfl
@[simp] theorem refuse_fcmd : s.refuse.fcmd = s.fcmd := rfl
@[simp] theorem refuse_fxs : s.refuse.fxs = s.fxs := rfl
@[simp] theorem refuse_mem : s.refuse.mem = s.mem := rfl
@[simp] theorem refuse_writable : s.refuse.writable = s.writable := rfl
@[simp] theorem refuse_cmd : s.refuse.cmd = s.cmd := rfl
@[simp] theorem refuse_inbox : s.refuse.inbox = s.inbox := rfl
@[simp] theorem refuse_responses : s.refuse.responses = s.responses ++ [⟨.refused, false⟩] := rfl
@[simp] theorem refuse_draws : s.refuse.draws = s.draws := rfl

/-! ### The fields after an OK response -/

@[simp] theorem finishOk_v : s.finishOk.v = s.v := rfl
@[simp] theorem finishOk_vv : s.finishOk.vv = s.vv := rfl
@[simp] theorem finishOk_z : s.finishOk.z = s.z := rfl
@[simp] theorem finishOk_faulted : s.finishOk.faulted = s.faulted := rfl
@[simp] theorem finishOk_fcause : s.finishOk.fcause = s.fcause := rfl
@[simp] theorem finishOk_fcmd : s.finishOk.fcmd = s.fcmd := rfl
@[simp] theorem finishOk_fxs : s.finishOk.fxs = s.fxs := rfl
@[simp] theorem finishOk_mem : s.finishOk.mem = s.mem := rfl
@[simp] theorem finishOk_writable : s.finishOk.writable = s.writable := rfl
@[simp] theorem finishOk_cmd : s.finishOk.cmd = s.cmd := rfl
@[simp] theorem finishOk_inbox : s.finishOk.inbox = s.inbox := rfl
@[simp] theorem finishOk_responses : s.finishOk.responses = s.responses ++ [⟨.ok, s.z⟩] := rfl
@[simp] theorem finishOk_draws : s.finishOk.draws = s.draws := rfl

/-! ### The fields after the end of a command that writes a register -/

@[simp] theorem finishWrite_v (r : Reg) (x : VReg) : (s.finishWrite r x).v = s.v.set r.val x r.isLt := rfl
@[simp] theorem finishWrite_vv (r : Reg) (x : VReg) : (s.finishWrite r x).vv = s.vv ||| (1#16 <<< r.val) := rfl
@[simp] theorem finishWrite_z (r : Reg) (x : VReg) : (s.finishWrite r x).z = s.z := rfl
@[simp] theorem finishWrite_faulted (r : Reg) (x : VReg) : (s.finishWrite r x).faulted = s.faulted := rfl
@[simp] theorem finishWrite_fcause (r : Reg) (x : VReg) : (s.finishWrite r x).fcause = s.fcause := rfl
@[simp] theorem finishWrite_fcmd (r : Reg) (x : VReg) : (s.finishWrite r x).fcmd = s.fcmd := rfl
@[simp] theorem finishWrite_fxs (r : Reg) (x : VReg) : (s.finishWrite r x).fxs = s.fxs := rfl
@[simp] theorem finishWrite_mem (r : Reg) (x : VReg) : (s.finishWrite r x).mem = s.mem := rfl
@[simp] theorem finishWrite_writable (r : Reg) (x : VReg) : (s.finishWrite r x).writable = s.writable := rfl
@[simp] theorem finishWrite_cmd (r : Reg) (x : VReg) : (s.finishWrite r x).cmd = s.cmd := rfl
@[simp] theorem finishWrite_inbox (r : Reg) (x : VReg) : (s.finishWrite r x).inbox = s.inbox := rfl
@[simp] theorem finishWrite_responses (r : Reg) (x : VReg) : (s.finishWrite r x).responses = s.responses ++ [⟨.ok, s.z⟩] := rfl
@[simp] theorem finishWrite_draws (r : Reg) (x : VReg) : (s.finishWrite r x).draws = s.draws := rfl

/-! ### The fields after the end of the all-zero test -/

@[simp] theorem finishTest_v (b : Bool) : (s.finishTest b).v = s.v := rfl
@[simp] theorem finishTest_vv (b : Bool) : (s.finishTest b).vv = s.vv := rfl
@[simp] theorem finishTest_z (b : Bool) : (s.finishTest b).z = b := rfl
@[simp] theorem finishTest_faulted (b : Bool) : (s.finishTest b).faulted = s.faulted := rfl
@[simp] theorem finishTest_fcause (b : Bool) : (s.finishTest b).fcause = s.fcause := rfl
@[simp] theorem finishTest_fcmd (b : Bool) : (s.finishTest b).fcmd = s.fcmd := rfl
@[simp] theorem finishTest_fxs (b : Bool) : (s.finishTest b).fxs = s.fxs := rfl
@[simp] theorem finishTest_mem (b : Bool) : (s.finishTest b).mem = s.mem := rfl
@[simp] theorem finishTest_writable (b : Bool) : (s.finishTest b).writable = s.writable := rfl
@[simp] theorem finishTest_cmd (b : Bool) : (s.finishTest b).cmd = s.cmd := rfl
@[simp] theorem finishTest_inbox (b : Bool) : (s.finishTest b).inbox = s.inbox := rfl
@[simp] theorem finishTest_responses (b : Bool) : (s.finishTest b).responses = s.responses ++ [⟨.ok, b⟩] := rfl
@[simp] theorem finishTest_draws (b : Bool) : (s.finishTest b).draws = s.draws := rfl

/-! ### The fields after a command presented -/

@[simp] theorem present_v (c : Command) : (s.present c).v = s.v := rfl
@[simp] theorem present_vv (c : Command) : (s.present c).vv = s.vv := rfl
@[simp] theorem present_z (c : Command) : (s.present c).z = s.z := rfl
@[simp] theorem present_faulted (c : Command) : (s.present c).faulted = s.faulted := rfl
@[simp] theorem present_fcause (c : Command) : (s.present c).fcause = s.fcause := rfl
@[simp] theorem present_fcmd (c : Command) : (s.present c).fcmd = s.fcmd := rfl
@[simp] theorem present_fxs (c : Command) : (s.present c).fxs = s.fxs := rfl
@[simp] theorem present_mem (c : Command) : (s.present c).mem = s.mem := rfl
@[simp] theorem present_writable (c : Command) : (s.present c).writable = s.writable := rfl
@[simp] theorem present_cmd (c : Command) : (s.present c).cmd = c := rfl
@[simp] theorem present_inbox (c : Command) : (s.present c).inbox = s.inbox := rfl
@[simp] theorem present_responses (c : Command) : (s.present c).responses = s.responses := rfl
@[simp] theorem present_draws (c : Command) : (s.present c).draws = s.draws := rfl

/-! ### The fields after a host write -/

@[simp] theorem hostWrite_v (a : Word64) (b : Byte) : (s.hostWrite a b).v = s.v := rfl
@[simp] theorem hostWrite_vv (a : Word64) (b : Byte) : (s.hostWrite a b).vv = s.vv := rfl
@[simp] theorem hostWrite_z (a : Word64) (b : Byte) : (s.hostWrite a b).z = s.z := rfl
@[simp] theorem hostWrite_faulted (a : Word64) (b : Byte) : (s.hostWrite a b).faulted = s.faulted := rfl
@[simp] theorem hostWrite_fcause (a : Word64) (b : Byte) : (s.hostWrite a b).fcause = s.fcause := rfl
@[simp] theorem hostWrite_fcmd (a : Word64) (b : Byte) : (s.hostWrite a b).fcmd = s.fcmd := rfl
@[simp] theorem hostWrite_fxs (a : Word64) (b : Byte) : (s.hostWrite a b).fxs = s.fxs := rfl
@[simp] theorem hostWrite_mem (a : Word64) (b : Byte) : (s.hostWrite a b).mem = s.mem.write a.toNat b := rfl
@[simp] theorem hostWrite_writable (a : Word64) (b : Byte) : (s.hostWrite a b).writable = s.writable := rfl
@[simp] theorem hostWrite_cmd (a : Word64) (b : Byte) : (s.hostWrite a b).cmd = s.cmd := rfl
@[simp] theorem hostWrite_inbox (a : Word64) (b : Byte) : (s.hostWrite a b).inbox = s.inbox := rfl
@[simp] theorem hostWrite_responses (a : Word64) (b : Byte) : (s.hostWrite a b).responses = s.responses := rfl
@[simp] theorem hostWrite_draws (a : Word64) (b : Byte) : (s.hostWrite a b).draws = s.draws := rfl

/-! ### The fields after the reset event -/

@[simp] theorem resetEvent_vv : s.resetEvent.vv = 0 := rfl
@[simp] theorem resetEvent_z : s.resetEvent.z = false := rfl
@[simp] theorem resetEvent_faulted : s.resetEvent.faulted = false := rfl
@[simp] theorem resetEvent_fcause : s.resetEvent.fcause = 0 := rfl
@[simp] theorem resetEvent_fcmd : s.resetEvent.fcmd = 0 := rfl
@[simp] theorem resetEvent_fxs : s.resetEvent.fxs = 0 := rfl
@[simp] theorem resetEvent_mem : s.resetEvent.mem = s.mem := rfl
@[simp] theorem resetEvent_writable : s.resetEvent.writable = s.writable := rfl
@[simp] theorem resetEvent_cmd : s.resetEvent.cmd = s.cmd := rfl
@[simp] theorem resetEvent_inbox : s.resetEvent.inbox = s.inbox := rfl
@[simp] theorem resetEvent_responses : s.resetEvent.responses = s.responses := rfl
@[simp] theorem resetEvent_draws : s.resetEvent.draws = s.draws + 1 := rfl

end Sys2Proof.Machine
end

