-- ==== Sys2Proof/Laws/Vectors.lean ====
section
/-! SUPPORT. Lanes of a vector, and the registers after a write. -/

namespace Sys2Proof.Machine

theorem extract_append_low {n : Nat} (x : BitVec n) (y : Lane) : (x ++ y).extractLsb' 0 32 = y := by
  ext j hj
  simp [BitVec.getElem_extractLsb', BitVec.getLsbD_append, hj]

theorem extract_append_high {n : Nat} (x : BitVec n) (y : Lane) (k : Nat) :
    (x ++ y).extractLsb' (k + 32) 32 = x.extractLsb' k 32 := by
  ext j hj
  simp only [BitVec.getElem_extractLsb', BitVec.getLsbD_append]
  rw [if_neg (by omega)]
  congr 1
  omega

/-- A lane of a vector built from lanes (R9). -/
@[simp] theorem lane_vec (l : LaneIx → Lane) (i : LaneIx) : lane (vec l) i = l i := by
  unfold lane vec
  fin_cases i <;> simp only [Nat.reduceMul] <;>
    repeat first
      | exact extract_append_low _ _
      | exact BitVec.extractLsb'_eq_self
      | refine (extract_append_high _ _ _).trans ?_

/-- A bit of a lane is a bit of the vector (R9). -/
theorem getLsbD_lane (v : VReg) (i : LaneIx) (j : Nat) (hj : j < 32) :
    (lane v i).getLsbD j = v.getLsbD (32 * i.val + j) := by
  simp [lane, hj]

/-- A vector is its eight lanes. -/
theorem eq_of_lanes {a b : VReg} (h : ∀ i, lane a i = lane b i) : a = b := by
  apply BitVec.eq_of_getLsbD_eq
  intro k hk
  have hj : k % 32 < 32 := by omega
  have e : k = 32 * (⟨k / 32, by omega⟩ : LaneIx).val + k % 32 := by simp; omega
  rw [e, ← getLsbD_lane _ _ _ hj, ← getLsbD_lane _ _ _ hj, h]

@[simp] theorem vec_lane (v : VReg) : vec (lane v) = v := eq_of_lanes fun i => lane_vec _ i

@[simp] theorem lane_lanewise2 (f : Lane → Lane → Lane) (a b : VReg) (i : LaneIx) :
    lane (lanewise2 f a b) i = f (lane a i) (lane b i) := lane_vec _ i

@[simp] theorem lane_lanewise3 (f : Lane → Lane → Lane → Lane) (a b c : VReg) (i : LaneIx) :
    lane (lanewise3 f a b c) i = f (lane a i) (lane b i) (lane c i) := lane_vec _ i

@[simp] theorem lane_broadcast (x : Lane) (i : LaneIx) : lane (broadcast x) i = x := lane_vec _ i

@[simp] theorem lane_insertLane (old : VReg) (k : LaneIx) (x : Lane) (i : LaneIx) :
    lane (insertLane old k x) i = if i = k then x else lane old i := lane_vec _ i

/-- The bitwise operations on 256 bits are lane-wise. -/
@[simp] theorem lane_or (a b : VReg) (i : LaneIx) : lane (a ||| b) i = lane a i ||| lane b i := by
  ext j hj; simp [lane]

@[simp] theorem lane_and (a b : VReg) (i : LaneIx) : lane (a &&& b) i = lane a i &&& lane b i := by
  ext j hj; simp [lane]

@[simp] theorem lane_not (a : VReg) (i : LaneIx) : lane (~~~a) i = ~~~lane a i := by
  have hi := i.isLt
  ext j hj
  simp [lane]
  omega

@[simp] theorem lane_zero (i : LaneIx) : lane 0#256 i = 0#32 := by
  ext j hj; simp [lane]

/-- The all-zero test is true iff every lane of the AND is zero (R113). -/
theorem testZ_iff (a b : VReg) : testZ a b = true ↔ ∀ i, lane a i &&& lane b i = 0#32 := by
  rw [testZ, beq_iff_eq]
  constructor
  · intro h i
    rw [← lane_and, h, lane_zero]
  · intro h
    exact eq_of_lanes fun i => by rw [lane_and, h, lane_zero]

variable (s : State)

@[simp] theorem readV_writeV_same (r : Reg) (x : VReg) : (s.writeV r x).readV r = x := by
  simp [State.readV, State.writeV, Vector.get_eq_getElem]

theorem readV_writeV_other {r q : Reg} (x : VReg) (h : q ≠ r) : (s.writeV r x).readV q = s.readV q := by
  have h' : r.val ≠ q.val := fun e => h (Fin.ext e.symm)
  simp [State.readV, State.writeV, Vector.get_eq_getElem, h']

/-- The valid bits after a register write (R28). -/
theorem valid_writeV (r q : Reg) (x : VReg) : (s.writeV r x).valid q = (s.valid q || decide (q = r)) := by
  have hq := q.isLt
  have hr := r.isLt
  have e : decide (q = r) = decide (q.val = r.val) := by simp [Fin.ext_iff]
  rw [e, State.valid, State.valid, writeV_vv, BitVec.getLsbD_or, BitVec.getLsbD_shiftLeft]
  congr 1
  by_cases h : q.val = r.val
  · simp [h, hr]
  · rcases Nat.lt_or_gt_of_ne h with h' | h' <;> (simp [BitVec.getLsbD_one, h, h'] <;> omega)

@[simp] theorem valid_writeV_same (r : Reg) (x : VReg) : (s.writeV r x).valid r = true := by
  simp [valid_writeV]

theorem valid_writeV_other {r q : Reg} (x : VReg) (h : q ≠ r) : (s.writeV r x).valid q = s.valid q := by
  simp [valid_writeV, h]

/-- Responses and fault entry leave the registers as they are. -/
@[simp] theorem readV_respond (st : Status) (b : Bool) (r : Reg) : (s.respond st b).readV r = s.readV r := rfl
@[simp] theorem valid_respond (st : Status) (b : Bool) (r : Reg) : (s.respond st b).valid r = s.valid r := rfl
@[simp] theorem readV_raise (f : FaultCause) (r : Reg) : (s.raise f).readV r = s.readV r := rfl
@[simp] theorem valid_raise (f : FaultCause) (r : Reg) : (s.raise f).valid r = s.valid r := rfl
@[simp] theorem readV_refuse (r : Reg) : s.refuse.readV r = s.readV r := rfl
@[simp] theorem valid_refuse (r : Reg) : s.refuse.valid r = s.valid r := rfl
@[simp] theorem readV_finishOk (r : Reg) : s.finishOk.readV r = s.readV r := rfl
@[simp] theorem valid_finishOk (r : Reg) : s.finishOk.valid r = s.valid r := rfl
@[simp] theorem readV_finishTest (b : Bool) (r : Reg) : (s.finishTest b).readV r = s.readV r := rfl
@[simp] theorem valid_finishTest (b : Bool) (r : Reg) : (s.finishTest b).valid r = s.valid r := rfl
@[simp] theorem readV_present (c : Command) (r : Reg) : (s.present c).readV r = s.readV r := rfl
@[simp] theorem valid_present (c : Command) (r : Reg) : (s.present c).valid r = s.valid r := rfl
@[simp] theorem readV_hostWrite (a : Word64) (b : Byte) (r : Reg) : (s.hostWrite a b).readV r = s.readV r := rfl
@[simp] theorem valid_hostWrite (a : Word64) (b : Byte) (r : Reg) : (s.hostWrite a b).valid r = s.valid r := rfl
@[simp] theorem valid_resetEvent (r : Reg) : s.resetEvent.valid r = false := by
  simp [State.valid]

@[simp] theorem readV_finishWrite_same (r : Reg) (x : VReg) : (s.finishWrite r x).readV r = x :=
  readV_writeV_same s r x

theorem readV_finishWrite_other {r q : Reg} (x : VReg) (h : q ≠ r) : (s.finishWrite r x).readV q = s.readV q :=
  readV_writeV_other s x h

@[simp] theorem valid_finishWrite_same (r : Reg) (x : VReg) : (s.finishWrite r x).valid r = true :=
  valid_writeV_same s r x

theorem valid_finishWrite_other {r q : Reg} (x : VReg) (h : q ≠ r) : (s.finishWrite r x).valid q = s.valid q :=
  valid_writeV_other s x h

end Sys2Proof.Machine
end

