-- ==== Sys2Proof/Laws/Exec.lean ====
section
/-! SUPPORT. What the common step, a meaning, a store and a step of the machine can do, said once. -/

namespace Sys2Proof.Machine

variable {s t : State}

/-! ## The common step -/

theorem commonStep_faulted {rs : List Reg} {f : State → State} (h : s.faulted = true) :
    commonStep rs f s = .next s.refuse := by
  simp [commonStep, h]

theorem commonStep_ready {rs : List Reg} {f : State → State} (h : Ready s rs) : commonStep rs f s = .next (f s) := by
  have h2 : rs.all s.valid = true := List.all_eq_true.2 h.2
  simp [commonStep, h.1, h2]

theorem commonStep_uninit {rs : List Reg} {f : State → State} (h : s.faulted = false)
    (hr : ∃ r ∈ rs, s.valid r = false) : commonStep rs f s = .next (s.raise .uninitRead) := by
  obtain ⟨r, hm, hv⟩ := hr
  have h2 : rs.all s.valid = false := List.all_eq_false.2 ⟨r, hm, by simp [hv]⟩
  simp [commonStep, h, h2]

/-- Everything the common step can do (R36). -/
theorem commonStep_cases {rs : List Reg} {f : State → State} (h : commonStep rs f s = .next t) :
    (s.faulted = true ∧ t = s.refuse) ∨
    (s.faulted = false ∧ (∃ r ∈ rs, s.valid r = false) ∧ t = s.raise .uninitRead) ∨
    (Ready s rs ∧ t = f s) := by
  unfold commonStep at h
  split at h
  · next hf => exact .inl ⟨hf, by injection h with h; exact h.symm⟩
  · next hf =>
    have hf : s.faulted = false := by simpa using hf
    split at h
    · next hv => exact .inr (.inr ⟨⟨hf, List.all_eq_true.1 hv⟩, by injection h with h; exact h.symm⟩)
    · next hv =>
      refine .inr (.inl ⟨hf, ?_, by injection h with h; exact h.symm⟩)
      simpa using hv

/-! ## Frames of the shared ends of a command -/

/-- What the end of a register-writing command does. -/
theorem finishWrite_writesRegister (s : State) (rd : Reg) (x : VReg) :
    WritesRegister s (s.finishWrite rd x) rd (lane x) where
  lanes i := by simp
  valid := by simp
  otherRegisters r hr := ⟨readV_finishWrite_other s x hr, valid_finishWrite_other s x hr⟩
  flag := rfl
  record := ⟨rfl, rfl, rfl, rfl⟩
  memory _ := rfl
  answer := ⟨s.z, rfl, rfl, rfl, rfl⟩
  draws := rfl

/-- What fault entry does (R175). -/
theorem raise_entersFault (s : State) (f : FaultCause) : EntersFault s (s.raise f) f where
  registers _ := rfl
  status := rfl
  answer := ⟨rfl, rfl, rfl, rfl⟩

/-! ## A store -/

/-- The alignment check reads the two low bits (R43). -/
theorem lowBits_eq_zero_iff (a : Word64) : a.extractLsb' 0 2 = 0#2 ↔ a.toNat % 4 = 0 := by
  rw [← BitVec.toNat_inj]
  simp [BitVec.extractLsb'_toNat]

/-- A store is admitted iff every lane word is writable (R45). -/
theorem admits_iff (s : State) (a : Nat) : s.admits a = true ↔ ∀ i : LaneIx, s.writableAt (a + 4 * i.val) = true := by
  rw [State.admits, List.all_eq_true]
  exact ⟨fun h i => h i (mem_laneIxs i), fun h i _ => h i⟩

/-- Everything the `execute` part of `VST` can do (R120). -/
theorem storeVector_cases (ra : Reg) (s : State) :
    (s.cmd.xs.toNat % 4 ≠ 0 ∧ storeVector ra s = s.raise .storeMisaligned) ∨
    (s.cmd.xs.toNat % 4 = 0 ∧ 2 ^ 64 - 32 < s.cmd.xs.toNat ∧ storeVector ra s = s.raise .storeAccess) ∨
    (s.cmd.xs.toNat % 4 = 0 ∧ s.cmd.xs.toNat ≤ 2 ^ 64 - 32 ∧ s.admits s.cmd.xs.toNat = true ∧
      storeVector ra s =
        { s with mem := s.mem.storeLanes s.cmd.xs.toNat (s.readV ra) (fun _ => true) laneIxs }.finishOk) ∨
    (s.cmd.xs.toNat % 4 = 0 ∧ s.cmd.xs.toNat ≤ 2 ^ 64 - 32 ∧ s.admits s.cmd.xs.toNat = false ∧
      storeVector ra s =
        { s with
          mem := s.mem.storeLanes s.cmd.xs.toNat (s.readV ra) (partialSelection s s.cmd.xs.toNat) laneIxs
          draws := s.draws + 1 }.raise .storeAccess) := by
  unfold storeVector storeAddress
  by_cases h1 : s.cmd.xs.toNat % 4 = 0
  · have h1' : ¬ s.cmd.xs.extractLsb' 0 2 ≠ 0#2 := not_not.2 ((lowBits_eq_zero_iff _).2 h1)
    simp only [if_neg h1']
    by_cases h2 : 2 ^ 64 - 32 < s.cmd.xs.toNat
    · exact .inr (.inl ⟨h1, h2, if_pos h2⟩)
    · simp only [if_neg h2]
      cases h3 : s.admits s.cmd.xs.toNat
      · exact .inr (.inr (.inr ⟨h1, by omega, rfl, rfl⟩))
      · exact .inr (.inr (.inl ⟨h1, by omega, rfl, rfl⟩))
  · exact .inl ⟨h1, if_pos fun h => h1 ((lowBits_eq_zero_iff _).1 h)⟩

/-! ## A meaning -/

/-- What an instruction does when the unit accepts it and its sources are valid. -/
inductive Effect (s : State) : Instr → State → Prop where
  | writes (i : Instr) (rd : Reg) (x : VReg) (h : i.dest = some rd) : Effect s i (s.finishWrite rd x)
  | tests (ra rb : Reg) : Effect s (.vtestz ra rb) (s.finishTest (testZ (s.readV ra) (s.readV rb)))
  | stores (ra : Reg) : Effect s (.vst ra) (storeVector ra s)
  | invalid (rd ra rb : Reg) (m : BitVec 8) : Effect s (.vcmpInvalidMode rd ra rb m) (s.raise .invalidMode)

/-- Every meaning is a common step over the sources of rule R36, with an effect of rule R37. -/
theorem exec_eq_commonStep (i : Instr) (s : State) :
    ∃ f : State → State, exec i s = commonStep i.sources f s ∧ Effect s i (f s) := by
  cases i <;>
  simp only [exec, execVfadd, execVfmul, execVfmadd, execVfmsub, execVuadd, execVuacc, execVor, execVandn,
    execVand, execVtestz, execVst, execVbcast, execVins, execVcmpEqOq, execVcmpLtOs, execVcmpLeOs,
    execVcmpUnordQ, execVcmpNeqUq, execVcmpNltUs, execVcmpNleUs, execVcmpOrdQ, execVcmpEqUq, execVcmpNgeUs,
    execVcmpNgtUs, execVcmpFalseOq, execVcmpNeqOq, execVcmpGeOs, execVcmpGtOs, execVcmpTrueUq, execVcmpEqOs,
    execVcmpLtOq, execVcmpLeOq, execVcmpUnordS, execVcmpNeqUs, execVcmpNltUq, execVcmpNleUq, execVcmpOrdS,
    execVcmpEqUs, execVcmpNgeUq, execVcmpNgtUq, execVcmpFalseOs, execVcmpNeqOs, execVcmpGeOq, execVcmpGtOq,
    execVcmpTrueUs, execVcmpInvalidMode, compareLanes, compareConstant]
  case vtestz ra rb => exact ⟨_, rfl, Effect.tests (s := s) ra rb⟩
  case vst ra => exact ⟨_, rfl, Effect.stores ra⟩
  case vcmpInvalidMode rd ra rb m => exact ⟨_, rfl, Effect.invalid (s := s) rd ra rb m⟩
  all_goals exact ⟨_, rfl, Effect.writes (s := s) _ _ _ rfl⟩

/-- A meaning always answers a next state. -/
theorem exec_next (i : Instr) (s : State) : ∃ t, exec i s = .next t := by
  obtain ⟨f, hf, -⟩ := exec_eq_commonStep i s
  rw [hf, commonStep]
  split
  · exact ⟨_, rfl⟩
  · split <;> exact ⟨_, rfl⟩

/-- Everything a meaning can do. -/
theorem exec_cases {i : Instr} (h : exec i s = .next t) :
    (s.faulted = true ∧ t = s.refuse) ∨
    (s.faulted = false ∧ (∃ r ∈ i.sources, s.valid r = false) ∧ t = s.raise .uninitRead) ∨
    (Ready s i.sources ∧ Effect s i t) := by
  obtain ⟨f, hf, he⟩ := exec_eq_commonStep i s
  rw [hf] at h
  rcases commonStep_cases h with h | h | ⟨hr, rfl⟩
  · exact .inl h
  · exact .inr (.inl h)
  · exact .inr (.inr ⟨hr, he⟩)

theorem exec_faulted (i : Instr) (h : s.faulted = true) : exec i s = .next s.refuse := by
  obtain ⟨f, hf, -⟩ := exec_eq_commonStep i s
  rw [hf, commonStep_faulted h]

/-! ## A step -/

theorem step_idle (h : s.inbox = []) : step s = .next s := by
  simp [step, State.takeAction, h]

theorem step_reset {rest : List HostAction} (h : s.inbox = .reset :: rest) :
    step s = .next { s with inbox := rest }.resetEvent := by
  simp [step, State.takeAction, h]

/-- Everything a reset during a command can do (R191). -/
theorem resetDuring_cases (c : Command) (s : State) :
    s.resetDuring c = (s.present c).resetEvent ∨
    ∃ ra, decode c.w = .ok (.vst ra) ∧ s.faulted = false ∧ s.valid ra = true ∧ c.xs.toNat % 4 = 0 ∧
      c.xs.toNat ≤ 2 ^ 64 - 32 ∧
      s.resetDuring c =
        { s.present c with
          mem := s.mem.storeLanes c.xs.toNat (s.readV ra) (partialSelection s c.xs.toNat) laneIxs }.resetEvent := by
  unfold State.resetDuring
  dsimp only
  split
  · next ra hd =>
    unfold interruptedStore
    dsimp only
    split
    · next h => exact .inr ⟨ra, hd, h.1, h.2.1, (lowBits_eq_zero_iff _).1 h.2.2.1, h.2.2.2, rfl⟩
    · exact .inl rfl
  · exact .inl rfl

theorem step_resetDuring {rest : List HostAction} {c : Command} (h : s.inbox = .resetDuring c :: rest) :
    step s = .next ({ s with inbox := rest }.resetDuring c) := by
  simp [step, State.takeAction, h]

theorem step_memWrite {rest : List HostAction} {a : Word64} {b : Byte} (h : s.inbox = .memWrite a b :: rest) :
    step s = .next ({ s with inbox := rest }.hostWrite a b) := by
  simp [step, State.takeAction, h]

theorem step_command {rest : List HostAction} {c : Command} (h : s.inbox = .command c :: rest) :
    step s =
      if s.faulted then .next ({ s with inbox := rest }.present c).refuse
      else match decode c.w with
        | .error _ => .next (({ s with inbox := rest }.present c).raise .illegalCommand)
        | .ok i => exec i ({ s with inbox := rest }.present c) := by
  have e : s.takeAction = some (.command c, { s with inbox := rest }) := by simp [State.takeAction, h]
  unfold step
  rw [e]
  all_goals rfl

end Sys2Proof.Machine
end

