-- ==== Sys2Proof/Laws/PerInstr.lean ====
section
/-! SUPPORT. The family RowOfEncoding: the word of every well-formed instruction is a word of some row of the opcode
table (30_encoding.md rules R62, R68), one lemma per constructor. -/

namespace Sys2Proof.Laws.RowOfEncoding

/-- The word of the instruction is selected by a row of the opcode table. -/
def Statement (i : Instr) : Prop := i.wellFormed = true → ∃ row ∈ tableRows, row.selects (encode i) = true

/-- A packed word is selected by a row whose mask and pattern are given field by field. -/
theorem selects_pack (row : TableRow) (op : BitVec 8) (rd ra rb rc : Reg) (imm : BitVec 8)
    (mop : BitVec 8) (mrd mra mrb mrc : BitVec 4) (mimm : BitVec 8)
    (hm : row.mask = mop ++ mrd ++ mra ++ mrb ++ mrc ++ mimm)
    (hp : (op &&& mop) ++ (BitVec.ofNat 4 rd &&& mrd) ++ (BitVec.ofNat 4 ra &&& mra) ++ (BitVec.ofNat 4 rb &&& mrb) ++
        (BitVec.ofNat 4 rc &&& mrc) ++ (imm &&& mimm) = row.pattern) :
    row.selects (packWord op rd ra rb rc imm) = true := by
  rw [TableRow.selects, hm, packWord_and, hp, beq_iff_eq]

/-- The rows of the table by number, for the membership goals below. -/
theorem modeRow_mem (k : Nat) (h : k < 32) : modeRow k ∈ tableRows :=
  List.mem_append_left _ (List.mem_append_right _ (List.mem_map.2 ⟨k, List.mem_range.2 h, rfl⟩))

theorem plainRow_mem {row : TableRow} (h : row ∈ plainRows) : row ∈ tableRows :=
  List.mem_append_left _ (List.mem_append_left _ h)

theorem invalidRow_mem {row : TableRow} (h : row ∈ invalidModeRows) : row ∈ tableRows :=
  List.mem_append_right _ h

theorem vfadd (rd ra rb : Reg) : Statement (.vfadd rd ra rb) := fun _ =>
  ⟨⟨0xFF000FFF, 0x01000000⟩, plainRow_mem (by decide),
    selects_pack _ _ _ _ _ _ _ 0xFF#8 0#4 0#4 0#4 0xF#4 0xFF#8 (by decide) (by simp [BitVec.and_zero]; try decide)⟩

theorem vfmul (rd ra rb : Reg) : Statement (.vfmul rd ra rb) := fun _ =>
  ⟨⟨0xFF000FFF, 0x02000000⟩, plainRow_mem (by decide),
    selects_pack _ _ _ _ _ _ _ 0xFF#8 0#4 0#4 0#4 0xF#4 0xFF#8 (by decide) (by simp [BitVec.and_zero]; try decide)⟩

theorem vfmadd (rd ra rb rc : Reg) : Statement (.vfmadd rd ra rb rc) := fun _ =>
  ⟨⟨0xFF0000FF, 0x03000000⟩, plainRow_mem (by decide),
    selects_pack _ _ _ _ _ _ _ 0xFF#8 0#4 0#4 0#4 0#4 0xFF#8 (by decide) (by simp [BitVec.and_zero]; try decide)⟩

theorem vfmsub (rd ra rb rc : Reg) : Statement (.vfmsub rd ra rb rc) := fun _ =>
  ⟨⟨0xFF0000FF, 0x04000000⟩, plainRow_mem (by decide),
    selects_pack _ _ _ _ _ _ _ 0xFF#8 0#4 0#4 0#4 0#4 0xFF#8 (by decide) (by simp [BitVec.and_zero]; try decide)⟩

theorem vuadd (rd ra rb : Reg) : Statement (.vuadd rd ra rb) := fun _ =>
  ⟨⟨0xFF000FFF, 0x08000000⟩, plainRow_mem (by decide),
    selects_pack _ _ _ _ _ _ _ 0xFF#8 0#4 0#4 0#4 0xF#4 0xFF#8 (by decide) (by simp [BitVec.and_zero]; try decide)⟩

theorem vuacc (rd ra rb : Reg) : Statement (.vuacc rd ra rb) := fun _ =>
  ⟨⟨0xFF000FFF, 0x09000000⟩, plainRow_mem (by decide),
    selects_pack _ _ _ _ _ _ _ 0xFF#8 0#4 0#4 0#4 0xF#4 0xFF#8 (by decide) (by simp [BitVec.and_zero]; try decide)⟩

theorem vor (rd ra rb : Reg) : Statement (.vor rd ra rb) := fun _ =>
  ⟨⟨0xFF000FFF, 0x10000000⟩, plainRow_mem (by decide),
    selects_pack _ _ _ _ _ _ _ 0xFF#8 0#4 0#4 0#4 0xF#4 0xFF#8 (by decide) (by simp [BitVec.and_zero]; try decide)⟩

theorem vandn (rd ra rb : Reg) : Statement (.vandn rd ra rb) := fun _ =>
  ⟨⟨0xFF000FFF, 0x11000000⟩, plainRow_mem (by decide),
    selects_pack _ _ _ _ _ _ _ 0xFF#8 0#4 0#4 0#4 0xF#4 0xFF#8 (by decide) (by simp [BitVec.and_zero]; try decide)⟩

theorem vand (rd ra rb : Reg) : Statement (.vand rd ra rb) := fun _ =>
  ⟨⟨0xFF000FFF, 0x12000000⟩, plainRow_mem (by decide),
    selects_pack _ _ _ _ _ _ _ 0xFF#8 0#4 0#4 0#4 0xF#4 0xFF#8 (by decide) (by simp [BitVec.and_zero]; try decide)⟩

theorem vtestz (ra rb : Reg) : Statement (.vtestz ra rb) := fun _ =>
  ⟨⟨0xFFF00FFF, 0x13000000⟩, plainRow_mem (by decide),
    selects_pack _ _ _ _ _ _ _ 0xFF#8 0xF#4 0#4 0#4 0xF#4 0xFF#8 (by decide) (by simp [BitVec.and_zero]; try decide)⟩

theorem vst (ra : Reg) : Statement (.vst ra) := fun _ =>
  ⟨⟨0xFFF0FFFF, 0x18000000⟩, plainRow_mem (by decide),
    selects_pack _ _ _ _ _ _ _ 0xFF#8 0xF#4 0#4 0xF#4 0xF#4 0xFF#8 (by decide) (by simp [BitVec.and_zero]; try decide)⟩

theorem vbcast (rd : Reg) : Statement (.vbcast rd) := fun _ =>
  ⟨⟨0xFF0FFFFF, 0x1C000000⟩, plainRow_mem (by decide),
    selects_pack _ _ _ _ _ _ _ 0xFF#8 0#4 0xF#4 0xF#4 0xF#4 0xFF#8 (by decide) (by simp [BitVec.and_zero]; try decide)⟩

theorem vins (rd : Reg) (k : LaneIx) : Statement (.vins rd k) := fun h => by
  refine ⟨⟨0xFF0FFFF8, 0x1D000000⟩, plainRow_mem (by decide),
    selects_pack _ _ _ _ _ _ _ 0xFF#8 0#4 0xF#4 0xF#4 0xF#4 0xF8#8 (by decide) ?_⟩
  simp only [BitVec.and_zero]
  clear h
  revert k
  decide

theorem vcmpEqOq (rd ra rb : Reg) : Statement (.vcmpEqOq rd ra rb) := fun _ =>
  ⟨modeRow 0, modeRow_mem 0 (by decide),
    selects_pack _ _ _ _ _ _ _ 0xFF#8 0#4 0#4 0#4 0xF#4 0xFF#8 (by decide) (by simp only [BitVec.and_zero]; decide)⟩

theorem vcmpLtOs (rd ra rb : Reg) : Statement (.vcmpLtOs rd ra rb) := fun _ =>
  ⟨modeRow 1, modeRow_mem 1 (by decide),
    selects_pack _ _ _ _ _ _ _ 0xFF#8 0#4 0#4 0#4 0xF#4 0xFF#8 (by decide) (by simp only [BitVec.and_zero]; decide)⟩

theorem vcmpLeOs (rd ra rb : Reg) : Statement (.vcmpLeOs rd ra rb) := fun _ =>
  ⟨modeRow 2, modeRow_mem 2 (by decide),
    selects_pack _ _ _ _ _ _ _ 0xFF#8 0#4 0#4 0#4 0xF#4 0xFF#8 (by decide) (by simp only [BitVec.and_zero]; decide)⟩

theorem vcmpUnordQ (rd ra rb : Reg) : Statement (.vcmpUnordQ rd ra rb) := fun _ =>
  ⟨modeRow 3, modeRow_mem 3 (by decide),
    selects_pack _ _ _ _ _ _ _ 0xFF#8 0#4 0#4 0#4 0xF#4 0xFF#8 (by decide) (by simp only [BitVec.and_zero]; decide)⟩

theorem vcmpNeqUq (rd ra rb : Reg) : Statement (.vcmpNeqUq rd ra rb) := fun _ =>
  ⟨modeRow 4, modeRow_mem 4 (by decide),
    selects_pack _ _ _ _ _ _ _ 0xFF#8 0#4 0#4 0#4 0xF#4 0xFF#8 (by decide) (by simp only [BitVec.and_zero]; decide)⟩

theorem vcmpNltUs (rd ra rb : Reg) : Statement (.vcmpNltUs rd ra rb) := fun _ =>
  ⟨modeRow 5, modeRow_mem 5 (by decide),
    selects_pack _ _ _ _ _ _ _ 0xFF#8 0#4 0#4 0#4 0xF#4 0xFF#8 (by decide) (by simp only [BitVec.and_zero]; decide)⟩

theorem vcmpNleUs (rd ra rb : Reg) : Statement (.vcmpNleUs rd ra rb) := fun _ =>
  ⟨modeRow 6, modeRow_mem 6 (by decide),
    selects_pack _ _ _ _ _ _ _ 0xFF#8 0#4 0#4 0#4 0xF#4 0xFF#8 (by decide) (by simp only [BitVec.and_zero]; decide)⟩

theorem vcmpOrdQ (rd ra rb : Reg) : Statement (.vcmpOrdQ rd ra rb) := fun _ =>
  ⟨modeRow 7, modeRow_mem 7 (by decide),
    selects_pack _ _ _ _ _ _ _ 0xFF#8 0#4 0#4 0#4 0xF#4 0xFF#8 (by decide) (by simp only [BitVec.and_zero]; decide)⟩

theorem vcmpEqUq (rd ra rb : Reg) : Statement (.vcmpEqUq rd ra rb) := fun _ =>
  ⟨modeRow 8, modeRow_mem 8 (by decide),
    selects_pack _ _ _ _ _ _ _ 0xFF#8 0#4 0#4 0#4 0xF#4 0xFF#8 (by decide) (by simp only [BitVec.and_zero]; decide)⟩

theorem vcmpNgeUs (rd ra rb : Reg) : Statement (.vcmpNgeUs rd ra rb) := fun _ =>
  ⟨modeRow 9, modeRow_mem 9 (by decide),
    selects_pack _ _ _ _ _ _ _ 0xFF#8 0#4 0#4 0#4 0xF#4 0xFF#8 (by decide) (by simp only [BitVec.and_zero]; decide)⟩

theorem vcmpNgtUs (rd ra rb : Reg) : Statement (.vcmpNgtUs rd ra rb) := fun _ =>
  ⟨modeRow 10, modeRow_mem 10 (by decide),
    selects_pack _ _ _ _ _ _ _ 0xFF#8 0#4 0#4 0#4 0xF#4 0xFF#8 (by decide) (by simp only [BitVec.and_zero]; decide)⟩

theorem vcmpFalseOq (rd ra rb : Reg) : Statement (.vcmpFalseOq rd ra rb) := fun _ =>
  ⟨modeRow 11, modeRow_mem 11 (by decide),
    selects_pack _ _ _ _ _ _ _ 0xFF#8 0#4 0#4 0#4 0xF#4 0xFF#8 (by decide) (by simp only [BitVec.and_zero]; decide)⟩

theorem vcmpNeqOq (rd ra rb : Reg) : Statement (.vcmpNeqOq rd ra rb) := fun _ =>
  ⟨modeRow 12, modeRow_mem 12 (by decide),
    selects_pack _ _ _ _ _ _ _ 0xFF#8 0#4 0#4 0#4 0xF#4 0xFF#8 (by decide) (by simp only [BitVec.and_zero]; decide)⟩

theorem vcmpGeOs (rd ra rb : Reg) : Statement (.vcmpGeOs rd ra rb) := fun _ =>
  ⟨modeRow 13, modeRow_mem 13 (by decide),
    selects_pack _ _ _ _ _ _ _ 0xFF#8 0#4 0#4 0#4 0xF#4 0xFF#8 (by decide) (by simp only [BitVec.and_zero]; decide)⟩

theorem vcmpGtOs (rd ra rb : Reg) : Statement (.vcmpGtOs rd ra rb) := fun _ =>
  ⟨modeRow 14, modeRow_mem 14 (by decide),
    selects_pack _ _ _ _ _ _ _ 0xFF#8 0#4 0#4 0#4 0xF#4 0xFF#8 (by decide) (by simp only [BitVec.and_zero]; decide)⟩

theorem vcmpTrueUq (rd ra rb : Reg) : Statement (.vcmpTrueUq rd ra rb) := fun _ =>
  ⟨modeRow 15, modeRow_mem 15 (by decide),
    selects_pack _ _ _ _ _ _ _ 0xFF#8 0#4 0#4 0#4 0xF#4 0xFF#8 (by decide) (by simp only [BitVec.and_zero]; decide)⟩

theorem vcmpEqOs (rd ra rb : Reg) : Statement (.vcmpEqOs rd ra rb) := fun _ =>
  ⟨modeRow 16, modeRow_mem 16 (by decide),
    selects_pack _ _ _ _ _ _ _ 0xFF#8 0#4 0#4 0#4 0xF#4 0xFF#8 (by decide) (by simp only [BitVec.and_zero]; decide)⟩

theorem vcmpLtOq (rd ra rb : Reg) : Statement (.vcmpLtOq rd ra rb) := fun _ =>
  ⟨modeRow 17, modeRow_mem 17 (by decide),
    selects_pack _ _ _ _ _ _ _ 0xFF#8 0#4 0#4 0#4 0xF#4 0xFF#8 (by decide) (by simp only [BitVec.and_zero]; decide)⟩

theorem vcmpLeOq (rd ra rb : Reg) : Statement (.vcmpLeOq rd ra rb) := fun _ =>
  ⟨modeRow 18, modeRow_mem 18 (by decide),
    selects_pack _ _ _ _ _ _ _ 0xFF#8 0#4 0#4 0#4 0xF#4 0xFF#8 (by decide) (by simp only [BitVec.and_zero]; decide)⟩

theorem vcmpUnordS (rd ra rb : Reg) : Statement (.vcmpUnordS rd ra rb) := fun _ =>
  ⟨modeRow 19, modeRow_mem 19 (by decide),
    selects_pack _ _ _ _ _ _ _ 0xFF#8 0#4 0#4 0#4 0xF#4 0xFF#8 (by decide) (by simp only [BitVec.and_zero]; decide)⟩

theorem vcmpNeqUs (rd ra rb : Reg) : Statement (.vcmpNeqUs rd ra rb) := fun _ =>
  ⟨modeRow 20, modeRow_mem 20 (by decide),
    selects_pack _ _ _ _ _ _ _ 0xFF#8 0#4 0#4 0#4 0xF#4 0xFF#8 (by decide) (by simp only [BitVec.and_zero]; decide)⟩

theorem vcmpNltUq (rd ra rb : Reg) : Statement (.vcmpNltUq rd ra rb) := fun _ =>
  ⟨modeRow 21, modeRow_mem 21 (by decide),
    selects_pack _ _ _ _ _ _ _ 0xFF#8 0#4 0#4 0#4 0xF#4 0xFF#8 (by decide) (by simp only [BitVec.and_zero]; decide)⟩

theorem vcmpNleUq (rd ra rb : Reg) : Statement (.vcmpNleUq rd ra rb) := fun _ =>
  ⟨modeRow 22, modeRow_mem 22 (by decide),
    selects_pack _ _ _ _ _ _ _ 0xFF#8 0#4 0#4 0#4 0xF#4 0xFF#8 (by decide) (by simp only [BitVec.and_zero]; decide)⟩

theorem vcmpOrdS (rd ra rb : Reg) : Statement (.vcmpOrdS rd ra rb) := fun _ =>
  ⟨modeRow 23, modeRow_mem 23 (by decide),
    selects_pack _ _ _ _ _ _ _ 0xFF#8 0#4 0#4 0#4 0xF#4 0xFF#8 (by decide) (by simp only [BitVec.and_zero]; decide)⟩

theorem vcmpEqUs (rd ra rb : Reg) : Statement (.vcmpEqUs rd ra rb) := fun _ =>
  ⟨modeRow 24, modeRow_mem 24 (by decide),
    selects_pack _ _ _ _ _ _ _ 0xFF#8 0#4 0#4 0#4 0xF#4 0xFF#8 (by decide) (by simp only [BitVec.and_zero]; decide)⟩

theorem vcmpNgeUq (rd ra rb : Reg) : Statement (.vcmpNgeUq rd ra rb) := fun _ =>
  ⟨modeRow 25, modeRow_mem 25 (by decide),
    selects_pack _ _ _ _ _ _ _ 0xFF#8 0#4 0#4 0#4 0xF#4 0xFF#8 (by decide) (by simp only [BitVec.and_zero]; decide)⟩

theorem vcmpNgtUq (rd ra rb : Reg) : Statement (.vcmpNgtUq rd ra rb) := fun _ =>
  ⟨modeRow 26, modeRow_mem 26 (by decide),
    selects_pack _ _ _ _ _ _ _ 0xFF#8 0#4 0#4 0#4 0xF#4 0xFF#8 (by decide) (by simp only [BitVec.and_zero]; decide)⟩

theorem vcmpFalseOs (rd ra rb : Reg) : Statement (.vcmpFalseOs rd ra rb) := fun _ =>
  ⟨modeRow 27, modeRow_mem 27 (by decide),
    selects_pack _ _ _ _ _ _ _ 0xFF#8 0#4 0#4 0#4 0xF#4 0xFF#8 (by decide) (by simp only [BitVec.and_zero]; decide)⟩

theorem vcmpNeqOs (rd ra rb : Reg) : Statement (.vcmpNeqOs rd ra rb) := fun _ =>
  ⟨modeRow 28, modeRow_mem 28 (by decide),
    selects_pack _ _ _ _ _ _ _ 0xFF#8 0#4 0#4 0#4 0xF#4 0xFF#8 (by decide) (by simp only [BitVec.and_zero]; decide)⟩

theorem vcmpGeOq (rd ra rb : Reg) : Statement (.vcmpGeOq rd ra rb) := fun _ =>
  ⟨modeRow 29, modeRow_mem 29 (by decide),
    selects_pack _ _ _ _ _ _ _ 0xFF#8 0#4 0#4 0#4 0xF#4 0xFF#8 (by decide) (by simp only [BitVec.and_zero]; decide)⟩

theorem vcmpGtOq (rd ra rb : Reg) : Statement (.vcmpGtOq rd ra rb) := fun _ =>
  ⟨modeRow 30, modeRow_mem 30 (by decide),
    selects_pack _ _ _ _ _ _ _ 0xFF#8 0#4 0#4 0#4 0xF#4 0xFF#8 (by decide) (by simp only [BitVec.and_zero]; decide)⟩

theorem vcmpTrueUs (rd ra rb : Reg) : Statement (.vcmpTrueUs rd ra rb) := fun _ =>
  ⟨modeRow 31, modeRow_mem 31 (by decide),
    selects_pack _ _ _ _ _ _ _ 0xFF#8 0#4 0#4 0#4 0xF#4 0xFF#8 (by decide) (by simp only [BitVec.and_zero]; decide)⟩

/-- The three rows of the invalid modes cover the mode values 32..255 (R68). -/
theorem invalid_imm (m : BitVec 8) (h : 32 ≤ m.toNat) : m &&& 0x80#8 = 0x80#8 ∨ m &&& 0xC0#8 = 0x40#8 ∨ m &&& 0xE0#8 = 0x20#8 := by
  revert m
  decide

theorem vcmpInvalidMode (rd ra rb : Reg) (mode : BitVec 8) : Statement (.vcmpInvalidMode rd ra rb mode) := fun h => by
  rcases invalid_imm mode (by simpa [Instr.wellFormed] using h) with e | e | e
  · exact ⟨⟨0xFF000F80, 0x20000080⟩, invalidRow_mem (by decide),
      selects_pack _ _ _ _ _ _ _ 0xFF#8 0#4 0#4 0#4 0xF#4 0x80#8 (by decide) (by simp only [BitVec.and_zero, e]; decide)⟩
  · exact ⟨⟨0xFF000FC0, 0x20000040⟩, invalidRow_mem (by decide),
      selects_pack _ _ _ _ _ _ _ 0xFF#8 0#4 0#4 0#4 0xF#4 0xC0#8 (by decide) (by simp only [BitVec.and_zero, e]; decide)⟩
  · exact ⟨⟨0xFF000FE0, 0x20000020⟩, invalidRow_mem (by decide),
      selects_pack _ _ _ _ _ _ _ 0xFF#8 0#4 0#4 0#4 0xF#4 0xE0#8 (by decide) (by simp only [BitVec.and_zero, e]; decide)⟩

end Sys2Proof.Laws.RowOfEncoding
end

