-- ==== Sys2Proof/Tests/Slice0.lean ====
section
/-! SUPPORT. Tests of the model against the spec's own vectors (95_test_vectors.md, whose row names stand in the
comments) and witnesses: for each statement with hypotheses, a concrete state and operands that meet them together. -/

namespace Sys2Proof.Tests

set_option Elab.async false

open Sys2Proof.Machine

/-! ## Helpers -/

/-- A register's contents, lane 0 first, as the spec writes them. -/
def lanes (l0 l1 l2 l3 l4 l5 l6 l7 : Lane) : VReg := l7 ++ l6 ++ l5 ++ l4 ++ l3 ++ l2 ++ l1 ++ l0

/-- `[x x8]`. -/
def x8 (x : Lane) : VReg := lanes x x x x x x x x

/-- The reset state with the given registers written. -/
def holding (l : List (Reg × VReg)) : State := l.foldl (fun s p => s.writeV p.1 p.2) State.reset

/-- `s` with the host's actions pending. -/
def pending (s : State) (l : List HostAction) : State := { s with inbox := l }

/-- `s` with the scalar operand `xs` presented. -/
def scalar (s : State) (xs : Word64) : State := { s with cmd := ⟨0, xs⟩ }

/-- The state after one step with the command `(w, xs)` pending. -/
def after (s : State) (w : CmdWord) (xs : Word64) : State :=
  match step (pending s [.command ⟨w, xs⟩]) with
  | .next t => t
  | .fault _ => s
  | .refused _ => s

/-- A faulted state: X1 of the vectors. -/
def faultedState : State := after State.reset 0x00000000 0x55

/-- The platform of vector X20: only the 16 bytes from 0x1000 are writable. -/
def narrow (s : State) : State := { s with writable := [⟨0x1000, 0x10⟩] }

/-! ## Well-formedness, decoding -/

/-- R65: 31 is a mode, so no term may carry it as an invalid mode. -/
theorem test_wellFormed_invalidMode :
    (Instr.vcmpInvalidMode 1 2 3 31).wellFormed = false ∧ (Instr.vcmpInvalidMode 1 2 3 32).wellFormed = true := by
  decide

/-- R61 to R64: a word of each family bit by bit: opcode, rd, ra, rb, rc, imm8. -/
theorem test_decode_bits :
    decode (0b00000001#8 ++ 0b0100#4 ++ 0b0011#4 ++ 0b0010#4 ++ 0b0000#4 ++ 0b00000000#8) = .ok (.vfadd 4 3 2) ∧
    decode (0b00000100#8 ++ 0b1000#4 ++ 0b0001#4 ++ 0b0101#4 ++ 0b0010#4 ++ 0b00000000#8) = .ok (.vfmsub 8 1 5 2) ∧
    decode (0b00001001#8 ++ 0b1001#4 ++ 0b1010#4 ++ 0b0100#4 ++ 0b0000#4 ++ 0b00000000#8) = .ok (.vuacc 9 10 4) ∧
    decode (0b00010001#8 ++ 0b1010#4 ++ 0b0101#4 ++ 0b1100#4 ++ 0b0000#4 ++ 0b00000000#8) = .ok (.vandn 10 5 12) ∧
    decode (0b00010011#8 ++ 0b0000#4 ++ 0b0011#4 ++ 0b0100#4 ++ 0b0000#4 ++ 0b00000000#8) = .ok (.vtestz 3 4) ∧
    decode (0b00011000#8 ++ 0b0000#4 ++ 0b0101#4 ++ 0b0000#4 ++ 0b0000#4 ++ 0b00000000#8) = .ok (.vst 5) ∧
    decode (0b00011101#8 ++ 0b0001#4 ++ 0b0000#4 ++ 0b0000#4 ++ 0b0000#4 ++ 0b00000011#8) = .ok (.vins 1 3) ∧
    decode (0b00100000#8 ++ 0b1010#4 ++ 0b1001#4 ++ 0b0100#4 ++ 0b0000#4 ++ 0b00010001#8) = .ok (.vcmpLtOq 10 9 4) ∧
    decode (0b00100000#8 ++ 0b0001#4 ++ 0b0010#4 ++ 0b0011#4 ++ 0b0000#4 ++ 0b00100000#8) =
      .ok (.vcmpInvalidMode 1 2 3 0b00100000#8) := by
  decide +kernel

/-- R64, R88 to R122: a word of each constructor other than `VCMP`. -/
theorem test_decode_plain :
    decode 0x01123000 = .ok (.vfadd 1 2 3) ∧ decode 0x02123000 = .ok (.vfmul 1 2 3) ∧
    decode 0x03123400 = .ok (.vfmadd 1 2 3 4) ∧ decode 0x04123400 = .ok (.vfmsub 1 2 3 4) ∧
    decode 0x08123000 = .ok (.vuadd 1 2 3) ∧ decode 0x09123000 = .ok (.vuacc 1 2 3) ∧
    decode 0x10123000 = .ok (.vor 1 2 3) ∧ decode 0x11123000 = .ok (.vandn 1 2 3) ∧
    decode 0x12123000 = .ok (.vand 1 2 3) ∧ decode 0x13023000 = .ok (.vtestz 2 3) ∧
    decode 0x180F0000 = .ok (.vst 15) ∧ decode 0x1CF00000 = .ok (.vbcast 15) ∧
    decode 0x1DF00007 = .ok (.vins 15 7) := by
  decide +kernel

theorem test_decode_vcmp_modes_0_to_15 :
    decode 0x20123000 = .ok (.vcmpEqOq 1 2 3) ∧
    decode 0x20123001 = .ok (.vcmpLtOs 1 2 3) ∧
    decode 0x20123002 = .ok (.vcmpLeOs 1 2 3) ∧
    decode 0x20123003 = .ok (.vcmpUnordQ 1 2 3) ∧
    decode 0x20123004 = .ok (.vcmpNeqUq 1 2 3) ∧
    decode 0x20123005 = .ok (.vcmpNltUs 1 2 3) ∧
    decode 0x20123006 = .ok (.vcmpNleUs 1 2 3) ∧
    decode 0x20123007 = .ok (.vcmpOrdQ 1 2 3) ∧
    decode 0x20123008 = .ok (.vcmpEqUq 1 2 3) ∧
    decode 0x20123009 = .ok (.vcmpNgeUs 1 2 3) ∧
    decode 0x2012300A = .ok (.vcmpNgtUs 1 2 3) ∧
    decode 0x2012300B = .ok (.vcmpFalseOq 1 2 3) ∧
    decode 0x2012300C = .ok (.vcmpNeqOq 1 2 3) ∧
    decode 0x2012300D = .ok (.vcmpGeOs 1 2 3) ∧
    decode 0x2012300E = .ok (.vcmpGtOs 1 2 3) ∧
    decode 0x2012300F = .ok (.vcmpTrueUq 1 2 3) := by
  decide +kernel

theorem test_decode_vcmp_modes_16_to_31 :
    decode 0x20123010 = .ok (.vcmpEqOs 1 2 3) ∧
    decode 0x20123011 = .ok (.vcmpLtOq 1 2 3) ∧
    decode 0x20123012 = .ok (.vcmpLeOq 1 2 3) ∧
    decode 0x20123013 = .ok (.vcmpUnordS 1 2 3) ∧
    decode 0x20123014 = .ok (.vcmpNeqUs 1 2 3) ∧
    decode 0x20123015 = .ok (.vcmpNltUq 1 2 3) ∧
    decode 0x20123016 = .ok (.vcmpNleUq 1 2 3) ∧
    decode 0x20123017 = .ok (.vcmpOrdS 1 2 3) ∧
    decode 0x20123018 = .ok (.vcmpEqUs 1 2 3) ∧
    decode 0x20123019 = .ok (.vcmpNgeUq 1 2 3) ∧
    decode 0x2012301A = .ok (.vcmpNgtUq 1 2 3) ∧
    decode 0x2012301B = .ok (.vcmpFalseOs 1 2 3) ∧
    decode 0x2012301C = .ok (.vcmpNeqOs 1 2 3) ∧
    decode 0x2012301D = .ok (.vcmpGeOq 1 2 3) ∧
    decode 0x2012301E = .ok (.vcmpGtOq 1 2 3) ∧
    decode 0x2012301F = .ok (.vcmpTrueUs 1 2 3) := by
  decide +kernel

/-- R65: the invalid modes begin at 32 and end at 255. -/
theorem test_decode_invalid_modes :
    decode 0x20123020 = .ok (.vcmpInvalidMode 1 2 3 32) ∧ decode 0x2012307F = .ok (.vcmpInvalidMode 1 2 3 127) ∧
    decode 0x201230FF = .ok (.vcmpInvalidMode 1 2 3 255) := by
  decide +kernel

/-- X1 to X9: the illegal words of the vectors. -/
theorem test_decode_illegal :
    [0x00000000#32, 0xFFFFFFFF, 0x01123100, 0x01123001, 0x13112000, 0x18051000, 0x1C110000, 0x1D100008,
      0x20123120].map (fun w => (decode w).toOption) = List.replicate 9 none := by
  decide +kernel

/-- The host's reading of a table word, and the step that runs it from reset (log 1). -/
theorem test_withFetchWord :
    decodeTableWord 32 0x1C100000 = some (.vbcast 1) ∧ decodeTableWord 32 0 = none ∧
    step (State.reset.withFetchWord 32 0x1C100000) = exec (.vbcast 1) (State.reset.present ⟨0x1C100000, 0⟩) :=
  ⟨by decide +kernel, by decide +kernel, rfl⟩

/-! ## Arithmetic -/

/-- A2, A4, A6, A7, A8, A9, A15, A16. -/
theorem test_vfadd :
    let s := holding [(2, lanes 0x3F800000 0x3F800001 0x7F7FFFFF 0x7F7FFFFF 0x00000000 0x80000000 0x00800000 0x007FFFFF),
      (3, lanes 0x33800000 0x33800000 0x73000000 0x72FFFFFF 0x80000000 0x80000000 0x80000001 0x00000001)]
    (after s 0x01123000 0).readV 1 =
      lanes 0x3F800000 0x3F800002 0x7F800000 0x7F7FFFFF 0x00000000 0x80000000 0x007FFFFF 0x00800000 ∧
    (after s 0x01123000 0).vv = 0x000E#16 ∧ (after s 0x01123000 0).responses = [⟨.ok, false⟩] := by
  decide +kernel

/-- A11, A17, A18: the three ways to a NaN sum, each the free value. -/
theorem test_vfadd_nan :
    fadd32 0x7F800000 0xFF800000 = nanResult .add 0x7F800000 0xFF800000 0 ∧
    fadd32 0x7FC00000 0x3F800000 = nanResult .add 0x7FC00000 0x3F800000 0 ∧
    fadd32 0x3F800000 0x7F800001 = nanResult .add 0x3F800000 0x7F800001 0 := ⟨rfl, rfl, rfl⟩

/-- M3, M6, M7, M8, M9, M11, M13, M16. -/
theorem test_vfmul :
    let s := holding [(2, lanes 0x00000000 0x7F800000 0x7F7FFFFF 0x00000001 0x00000003 0x00800000 0x3F800800 0x80000001),
      (3, lanes 0xC0A00000 0xC0000000 0x40000000 0x3F000000 0x3F000000 0x3F000000 0x3F800800 0x00000001)]
    (after s 0x02123000 0).readV 1 =
      lanes 0x80000000 0xFF800000 0x7F800000 0x00000000 0x00000002 0x00400000 0x3F801000 0x80000000 := by
  decide +kernel

/-- M5, M17. -/
theorem test_vfmul_nan :
    fmul32 0x7F800000 0x00000000 = nanResult .mul 0x7F800000 0 0 ∧
    fmul32 0x7FC00000 0x00000000 = nanResult .mul 0x7FC00000 0 0 := ⟨rfl, rfl⟩

/-- F2, F3, F7, F6, F13, F14, F15, F16. -/
theorem test_vfmadd :
    let s := holding [(2, lanes 0x3F800800 0x3F800001 0x80000000 0x00000000 0x7F7FFFFF 0x7F7FFFFF 0x00000001 0x00000001),
      (3, lanes 0x3F800800 0x3F800001 0x40A00000 0x40A00000 0x40000000 0x40000000 0x00000001 0x3F000000),
      (4, lanes 0xBF800000 0xBF800002 0x80000000 0x80000000 0xFF7FFFFF 0xFF800000 0x3F800000 0x00000001)]
    (after s 0x03123400 0).readV 1 =
      lanes 0x3A000400 0x28800000 0x80000000 0x00000000 0x7F7FFFFF 0xFF800000 0x3F800000 0x00000002 := by
  decide +kernel

/-- F9, F10, F17. -/
theorem test_vfmadd_nan :
    fma32 0x7F800000 0x00000000 0x3F800000 = nanResult .fma 0x7F800000 0x00000000 0x3F800000 ∧
    fma32 0x7F800000 0x3F800000 0xFF800000 = nanResult .fma 0x7F800000 0x3F800000 0xFF800000 ∧
    fma32 0x3F800000 0x3F800000 0x7FC00000 = nanResult .fma 0x3F800000 0x3F800000 0x7FC00000 := ⟨rfl, rfl, rfl⟩

/-- S1, S2, S3, S4, S5, S6, S8, S9. -/
theorem test_vfmsub :
    let s := holding [(2, lanes 0x40000000 0x3F800800 0x3F800000 0x00000000 0x00000000 0x80000000 0x7F800000 0x40000000),
      (3, lanes 0x40400000 0x3F800800 0x3F800000 0x00000000 0x00000000 0x00000000 0x3F800000 0x40000000),
      (4, lanes 0x3F800000 0x3F800000 0x3F800000 0x00000000 0x80000000 0x00000000 0xFF800000 0x40800000)]
    (after s 0x04123400 0).readV 1 =
      lanes 0x40A00000 0x3A000400 0x00000000 0x00000000 0x00000000 0x80000000 0x7F800000 0x00000000 := by
  decide +kernel

/-- X24: `rd`, `ra`, `rb` the same register, and `xs` ignored. -/
theorem test_vfadd_same_register :
    (after (holding [(1, x8 0x3F800000)]) 0x01111000 0xDEADBEEFDEADBEEF).readV 1 = x8 0x40000000 := by
  decide +kernel

/-! ## Integer and bitwise commands -/

/-- I1, I2, I3, I4: no carry crosses a lane. -/
theorem test_vuadd :
    (after (holding [(2, lanes 1 0xFFFFFFFF 0x80000000 0xFFFFFFFF 0 0 0 0), (3, lanes 2 1 0x80000000 2 0 0 0 0)])
      0x08123000 0).readV 1 = lanes 3 0 0 1 0 0 0 0 := by
  decide +kernel

/-- I5 to I9: the mask is `rb`, and only its bit 0 counts. -/
theorem test_vuacc :
    (after (holding [(2, lanes 5 5 0xFFFFFFFF 5 5 0 0 0), (3, lanes 0 0xFFFFFFFF 0 0xFFFFFFFE 1 1 1 1)])
      0x09123000 0).readV 1 = lanes 6 5 0 6 5 0 0 0 := by
  decide +kernel

/-- B1, B2, B3. -/
theorem test_vor :
    (after (holding [(2, lanes 0xFFFFFFFF 0x0F 0x7FC00001 0 0 0 0 0), (3, lanes 0 0x50 0x7FC00001 0 0 0 0 0)])
      0x10123000 0).readV 1 = lanes 0xFFFFFFFF 0x5F 0x7FC00001 0 0 0 0 0 := by
  decide +kernel

/-- B4 to B9: `ra & ~rb`, not `~ra & rb`. -/
theorem test_vandn :
    (after (holding [(2, lanes 0xFFFFFFFF 0xFFFFFFFF 0x0F 0 1 1 0 0), (3, lanes 0 0xFFFFFFFF 5 0xFFFFFFFF 0xFFFFFFFF 0 0 0)])
      0x11123000 0).readV 1 = lanes 0xFFFFFFFF 0 0x0A 0 0 1 0 0 := by
  decide +kernel

/-- B10, B11. -/
theorem test_vand :
    (after (holding [(2, lanes 0x0F 0xFFFFFFFF 0 0 0 0 0 0), (3, lanes 5 0x80000000 0 0 0 0 0 0)])
      0x12123000 0).readV 1 = lanes 5 0x80000000 0 0 0 0 0 0 := by
  decide +kernel

/-- T2: disjoint masks, and the answer `z` is the flag's new value. -/
theorem test_vtestz_disjoint :
    let t := after (holding [(1, lanes ones32 ones32 ones32 0 0 0 0 0), (2, lanes 0 0 0 ones32 ones32 ones32 ones32 ones32)])
      0x13012000 0
    t.z = true ∧ t.responses = [⟨.ok, true⟩] := by
  decide +kernel

/-- P2, commands 13 and 14: after a `VTESTZ` that set `Z`, a `VOR` is answered `(OK, 1)` (log 10). -/
theorem test_response_carries_flag :
    let s := holding [(3, lanes ones32 ones32 ones32 0 0 0 0 0), (4, lanes 0 0 0 ones32 ones32 ones32 ones32 ones32)]
    (after (after s 0x13034000 0) 0x10634000 0).responses = [⟨.ok, true⟩, ⟨.ok, true⟩] := by
  decide +kernel

/-- T4, T5: one bit in lane 7 is enough, and so is the sign bit of `-0`. -/
theorem test_vtestz_one_bit :
    (after (holding [(1, lanes 0 0 0 0 0 0 0 1), (2, x8 ones32)]) 0x13012000 0).z = false ∧
    (after (holding [(1, lanes 0x80000000 0 0 0 0 0 0 0)]) 0x13011000 0).z = false := by
  decide +kernel

/-! ## Store and data movement -/

/-- DM1. -/
theorem test_vbcast :
    let t := after State.reset 0x1C100000 0x123456789ABCDEF0
    t.readV 1 = x8 0x9ABCDEF0 ∧ t.vv = 0x0002#16 ∧ t.responses = [⟨.ok, false⟩] := by
  decide +kernel

/-- DM2. -/
theorem test_vins :
    (after (holding [(1, x8 0xAABBCCDD)]) 0x1D100003 0xFFFFFFFF00000007).readV 1 =
      lanes 0xAABBCCDD 0xAABBCCDD 0xAABBCCDD 0x00000007 0xAABBCCDD 0xAABBCCDD 0xAABBCCDD 0xAABBCCDD := by
  decide +kernel

/-- DM3: byte order, lane order, and nothing written beside the 32 bytes. -/
theorem test_vst :
    let t := after (holding [(1, lanes 0xAABBCCDD 0xAABBCCDD 0xAABBCCDD 0xAABBCCDD 0xAABBCCDD 0xAABBCCDD 0xAABBCCDD
      0x01020304)]) 0x18010000 0x1000
    [0x1000, 0x1001, 0x1002, 0x1003, 0x101B, 0x101C, 0x101D, 0x101E, 0x101F].map t.mem.read =
      [some 0xDD, some 0xCC, some 0xBB, some 0xAA, some 0xAA, some 0x04, some 0x03, some 0x02, some 0x01] ∧
    t.mem.read 0xFFF = none ∧ t.mem.read 0x1020 = none ∧ t.mem.length = 32 := by
  decide +kernel

/-- DM4: the highest legal address. -/
theorem test_vst_highest_address :
    let t := after (holding [(1, x8 0xAABBCCDD)]) 0x18010000 0xFFFFFFFFFFFFFFE0
    t.responses = [⟨.ok, false⟩] ∧ t.mem.read 0xFFFFFFFFFFFFFFFF = some 0xAA := by
  decide +kernel

/-! ## Comparison -/

/-- Lanes: K5, K1 (equal), K9, K12 (less), K17, K20 (greater), K26, K31 (unordered). -/
def compareState : State := holding
  [(2, lanes 0x40800000 0x00000000 0x3F800000 0x80000001 0x40000000 0x00800000 0x7F800001 0x7FFFFFFF),
   (3, lanes 0x40800000 0x80000000 0x40000000 0x80000000 0x3F800000 0x007FFFFF 0x3F800000 0x7FFFFFFF)]

/-- The result of `VCMP V1, V2, V3` in a mode. -/
def compared (mode : Nat) : VReg := (after compareState (BitVec.ofNat 32 (0x20123000 + mode)) 0).readV 1

/-- The result that is all-ones in the lanes of the classes for which the condition holds. -/
def quad (eq lt gt un : Bool) : VReg :=
  let f := fun b : Bool => if b then 0xFFFFFFFF#32 else 0x00000000#32
  lanes (f eq) (f eq) (f lt) (f lt) (f gt) (f gt) (f un) (f un)

theorem test_vcmp_modes_0_to_7 :
    compared 0 = quad true false false false ∧
    compared 1 = quad false true false false ∧
    compared 2 = quad true true false false ∧
    compared 3 = quad false false false true ∧
    compared 4 = quad false true true true ∧
    compared 5 = quad true false true true ∧
    compared 6 = quad false false true true ∧
    compared 7 = quad true true true false := by
  decide +kernel

theorem test_vcmp_modes_8_to_15 :
    compared 8 = quad true false false true ∧
    compared 9 = quad false true false true ∧
    compared 10 = quad true true false true ∧
    compared 11 = quad false false false false ∧
    compared 12 = quad false true true false ∧
    compared 13 = quad true false true false ∧
    compared 14 = quad false false true false ∧
    compared 15 = quad true true true true := by
  decide +kernel

theorem test_vcmp_modes_16_to_23 :
    compared 16 = quad true false false false ∧
    compared 17 = quad false true false false ∧
    compared 18 = quad true true false false ∧
    compared 19 = quad false false false true ∧
    compared 20 = quad false true true true ∧
    compared 21 = quad true false true true ∧
    compared 22 = quad false false true true ∧
    compared 23 = quad true true true false := by
  decide +kernel

theorem test_vcmp_modes_24_to_31 :
    compared 24 = quad true false false true ∧
    compared 25 = quad false true false true ∧
    compared 26 = quad true true false true ∧
    compared 27 = quad false false false false ∧
    compared 28 = quad false true true false ∧
    compared 29 = quad true false true false ∧
    compared 30 = quad false false true false ∧
    compared 31 = quad true true true true := by
  decide +kernel

/-- X13, X14: the constant modes read no register, so none need be valid. -/
theorem test_vcmp_constant_modes :
    (after State.reset 0x2012300B 0).responses = [⟨.ok, false⟩] ∧ (after State.reset 0x2012300B 0).vv = 0x0002#16 ∧
    (after State.reset 0x2012301F 0).readV 1 = x8 0xFFFFFFFF := by
  decide +kernel

/-! ## Faults, refusal, reset -/

/-- X1: an illegal word. -/
theorem test_illegal_command :
    faultedState.responses = [⟨.fault, false⟩] ∧ faultedState.statusOutputs = ⟨false, 0, true, 1, 0, 0x55⟩ := by
  decide +kernel

/-- X10, X11: an invalid mode, before the valid bits are consulted. -/
theorem test_invalid_mode :
    (after State.reset 0x20123020 0).statusOutputs = ⟨false, 0, true, 2, 0x20123020, 0⟩ ∧
    (after State.reset 0x201230FF 0).statusOutputs = ⟨false, 0, true, 2, 0x201230FF, 0⟩ := by
  decide +kernel

/-- X12, X15: a source register never written, `VINS`'s destination among them. -/
theorem test_uninit_read :
    (after State.reset 0x20123000 0).statusOutputs = ⟨false, 0, true, 3, 0x20123000, 0⟩ ∧
    (after State.reset 0x1D100000 7).statusOutputs = ⟨false, 0, true, 3, 0x1D100000, 7⟩ := by
  decide +kernel

/-- X16, X17, X18, X19: the order of the store's faults. -/
theorem test_store_faults :
    (after State.reset 0x18010000 0x1001).fcause = 3 ∧
    (after (holding [(1, x8 0xAABBCCDD)]) 0x18010000 0x1002).fcause = 4 ∧
    (after (holding [(1, x8 0xAABBCCDD)]) 0x18010000 0xFFFFFFFFFFFFFFE4).fcause = 5 ∧
    (after (holding [(1, x8 0xAABBCCDD)]) 0x18010000 0xFFFFFFFFFFFFFFFE).fcause = 4 := by
  decide +kernel

/-- X21, X22: refused while faulted; a reset clears the fault and the valid bits, whatever the registers then hold. -/
theorem test_refused_then_reset :
    (after faultedState 0x1C100000 5).responses = [⟨.fault, false⟩, ⟨.refused, false⟩] ∧
    (after faultedState 0x1C100000 5).vv = 0 ∧
    step (pending faultedState [.reset]) = .next (pending faultedState []).resetEvent ∧
    faultedState.resetEvent.statusOutputs = ⟨false, 0, false, 0, 0, 0⟩ :=
  ⟨by decide +kernel, by decide +kernel, rfl, rfl⟩

/-! ## Witnesses: a concrete state and operands that meet the hypotheses of each statement -/

theorem test_witness_DecodeOfEncodeIsTheInstruction :
    (Instr.vcmpInvalidMode 15 0 7 0x20).wellFormed = true ∧ (Instr.vins 15 7).wellFormed = true := by decide

theorem test_witness_EncodeOfDecodeIsTheWord :
    decode 0x1DF00007 = .ok (.vins 15 7) ∧ decode 0x20F070FF = .ok (.vcmpInvalidMode 15 0 7 0xFF) := by decide +kernel

theorem test_witness_IllegalWordsMatchNoRow :
    ((pending State.reset [.command ⟨0x01123100, 9⟩]).inbox = .command ⟨0x01123100, 9⟩ :: [] ∧
      State.reset.faulted = false ∧ ∀ row ∈ tableRows, row.selects 0x01123100 = false) ∧
    (opcodeField 0x20123120 = 0x20#8 ∧ rcField 0x20123120 ≠ 0#4) := by
  decide +kernel

theorem test_witness_StepRunsTheDecodedInstruction :
    (pending State.reset [.command ⟨0x1C100000, 5⟩, .reset]).inbox = .command ⟨0x1C100000, 5⟩ :: [.reset] ∧
    (pending State.reset [.command ⟨0x1C100000, 5⟩, .reset]).faulted = false ∧
    decode 0x1C100000 = .ok (.vbcast 1) := by
  decide +kernel

theorem test_witness_EveryStepAnswersItsAction :
    State.reset.inbox = [] ∧
    (pending State.reset [.command ⟨0, 0⟩]).inbox = .command ⟨0, 0⟩ :: [] ∧
    (pending State.reset [.reset]).inbox = .reset :: [] ∧
    (pending State.reset [.resetDuring ⟨0, 0⟩]).inbox = .resetDuring ⟨0, 0⟩ :: [] ∧
    (pending State.reset [.memWrite 0xFFFFFFFFFFFFFFFF 7]).inbox = .memWrite 0xFFFFFFFFFFFFFFFF 7 :: [] := by
  decide

/-- Two commands that are both answered OK with a write of the host between them, and two of which the first faults. -/
theorem test_witness_RunSucceedsIffUnfaultedAtTheEnd :
    (∃ s t : State, ∃ new, s.faulted = false ∧ (∀ a ∈ s.inbox, a.isReset = false) ∧
      Host.Core.run core s.inbox.length s = .next t ∧ t.responses = s.responses ++ new ∧ ∀ r ∈ new, r.status = .ok) ∧
    (∃ s t : State, ∃ new, s.faulted = false ∧ (∀ a ∈ s.inbox, a.isReset = false) ∧
      Host.Core.run core s.inbox.length s = .next t ∧ t.responses = s.responses ++ new ∧ t.faulted = true) :=
  ⟨⟨pending State.reset [.command ⟨0x1C100000, 5⟩, .memWrite 4 9, .command ⟨0x2050000F, 0⟩], _, [⟨.ok, false⟩, ⟨.ok, false⟩], rfl,
      by decide, rfl, by decide +kernel, by decide⟩,
   ⟨pending State.reset [.command ⟨0, 0⟩, .command ⟨0x1C100000, 5⟩], _, [⟨.fault, false⟩, ⟨.refused, false⟩], rfl,
      by decide, rfl, by decide +kernel, by decide +kernel⟩⟩

/-- An unfaulted state with memory listed, and a faulted one. -/
theorem test_witness_EveryStepKeepsTheInvariant :
    (∃ t, State.Inv (pending { State.reset with mem := [(5, 1)] } [.memWrite 4 9]) ∧
      step (pending { State.reset with mem := [(5, 1)] } [.memWrite 4 9]) = .next t) ∧
    (∃ t, State.Inv (pending faultedState [.reset]) ∧ step (pending faultedState [.reset]) = .next t) :=
  ⟨⟨_, ⟨by decide, by decide, by decide⟩, rfl⟩, ⟨_, ⟨by decide +kernel, by decide +kernel, by decide +kernel⟩, rfl⟩⟩

theorem test_witness_ResetEventClearsTheUnit :
    (pending faultedState [.reset]).inbox = .reset :: [] ∧ (pending faultedState [.reset]).faulted = true ∧
    ∃ t, step (pending faultedState [.reset]) = .next t ∧ t.faulted = false :=
  ⟨rfl, by decide +kernel, _, rfl, rfl⟩

theorem test_witness_HostWriteChangesOneByte :
    (pending faultedState [.memWrite 0xFFFFFFFFFFFFFFFF 7]).inbox = .memWrite 0xFFFFFFFFFFFFFFFF 7 :: [] := by
  decide +kernel

/-- The flag changes by a reset and by a `VTESTZ`. -/
theorem test_witness_OnlyVtestzWritesTheFlag :
    (∃ t, step (pending { State.reset with z := true } [.reset]) = .next t ∧ t.z ≠ true) ∧
    (∃ t, step (pending (holding [(1, 0)]) [.command ⟨0x13011000, 0⟩]) = .next t ∧ t.z ≠ false ∧
      decode 0x13011000 = .ok (.vtestz 1 1) ∧ t.responses = [] ++ [⟨.ok, true⟩]) :=
  ⟨⟨_, rfl, by decide⟩, ⟨_, rfl, by decide +kernel, by decide +kernel, by decide +kernel⟩⟩

/-- A valid bit is cleared by a reset, a register is written by a command. -/
theorem test_witness_ValidBitsTrackRegisterWrites :
    (∃ t, step (pending (holding [(1, 0)]) [.reset]) = .next t ∧ t.valid 1 ≠ (holding [(1, 0)]).valid 1) ∧
    (∃ t, step (pending (holding [(1, 0)]) [.command ⟨0x1C100000, 5⟩]) = .next t ∧
      t.readV 1 ≠ (holding [(1, 0)]).readV 1) :=
  ⟨⟨_, rfl, by decide +kernel⟩, ⟨_, rfl, by decide +kernel⟩⟩

/-- A legal command and an illegal word, neither a store. -/
theorem test_witness_OnlyVstWritesMemory :
    ((∀ ra, decode 0x1C100000 ≠ .ok (.vst ra)) ∧ ∃ t, step (pending State.reset [.command ⟨0x1C100000, 0⟩]) = .next t) ∧
    ((∀ ra, decode 0x00000000 ≠ .ok (.vst ra)) ∧ ∃ t, step (pending State.reset [.command ⟨0x00000000, 0⟩]) = .next t) :=
  ⟨⟨by decide +kernel, _, rfl⟩, ⟨by decide +kernel, _, rfl⟩⟩

theorem test_witness_FaultedUnitRefusesEveryCommand :
    faultedState.faulted = true ∧
    (pending faultedState [.command ⟨0x1C100000, 5⟩]).inbox = .command ⟨0x1C100000, 5⟩ :: [] := by
  decide +kernel

/-- Commands alone, and with a write of the host. -/
theorem test_witness_FaultedUnitStaysQuiescentUntilReset :
    ∀ l ∈ [[HostAction.command ⟨0x1C100000, 5⟩, .command ⟨0, 0⟩], [.command ⟨0x1C100000, 5⟩, .memWrite 4 9]],
      (pending faultedState l).faulted = true ∧ (∀ a ∈ l, a.isReset = false) ∧
      (match Host.Core.run core 2 (pending faultedState l) with | .next _ => true | _ => false) = true := by
  decide +kernel

/-- One command for each clause: the five faults and none, each in an unfaulted state. -/
theorem test_witness_FirstFaultInPriorityOrderIsReported :
    let s := holding [(1, 0)]
    s.faulted = false ∧
    [commandFault s ⟨0x20123120, 0⟩, commandFault s ⟨0x20123020, 0⟩, commandFault s ⟨0x18020000, 0x1001⟩,
     commandFault s ⟨0x18010000, 0xFFFFFFFFFFFFFFFE⟩, commandFault s ⟨0x18010000, 0xFFFFFFFFFFFFFFE4⟩,
     commandFault s ⟨0x18010000, 0xFFFFFFFFFFFFFFE0⟩, commandFault (narrow s) ⟨0x18010000, 0x1000⟩,
     commandFault s ⟨0x20123000, 0⟩, commandFault s ⟨0x2012300B, 0⟩] =
    [some .illegalCommand, some .invalidMode, some .uninitRead, some .storeMisaligned, some .storeAccess, none,
     some .storeAccess, some .uninitRead, none] := by
  decide +kernel

/-- A command of each outcome. -/
theorem test_witness_WhatSurvivesACommand :
    (after (holding [(1, 0)]) 0x13011000 0).responses = [⟨.ok, true⟩] ∧
    (after (holding [(1, 0)]) 0x18010000 0).responses = [⟨.ok, false⟩] ∧
    (after (holding [(1, 0)]) 0x18010000 1).responses = [⟨.fault, false⟩] ∧
    (after faultedState 0x13011000 0).responses = [⟨.fault, false⟩, ⟨.refused, false⟩] := by
  decide +kernel

theorem test_witness_NeverWrittenSourceFaults :
    State.reset.faulted = false ∧ (∃ r ∈ (Instr.vins 4 7).sources, State.reset.valid r = false) ∧
    (holding [(2, 0)]).faulted = false ∧ (∃ r ∈ (Instr.vfmadd 1 2 2 15).sources, (holding [(2, 0)]).valid r = false) := by
  decide +kernel

/-- Two states whose sources agree in lane 7 alone. -/
theorem test_witness_LanesDoNotInfluenceOneAnother :
    let s1 := holding [(2, lanes 1 2 3 4 5 6 7 8), (3, x8 9)]
    let s2 := holding [(2, lanes 0 0 0 0 0 0 0 8), (3, lanes 8 8 8 8 8 8 8 9)]
    (Instr.vuadd 1 2 3).lanePreserving = true ∧ (Instr.vuadd 1 2 3).dest = some 1 ∧
    Ready s1 [2, 3] ∧ Ready s2 [2, 3] ∧
    (∀ r ∈ (Instr.vuadd 1 2 3).sources, lane (s1.readV r) 7 = lane (s2.readV r) 7) ∧
    (∃ t1, exec (.vuadd 1 2 3) s1 = .next t1) ∧ (∃ t2, exec (.vuadd 1 2 3) s2 = .next t2) :=
  ⟨rfl, rfl, ⟨by decide +kernel, by decide +kernel⟩, ⟨by decide +kernel, by decide +kernel⟩, by decide +kernel,
    ⟨_, rfl⟩, ⟨_, rfl⟩⟩

/-- All-ones in `V5`, another value in `V1`. -/
theorem test_witness_PseudoCommandsDoWhatTheyName :
    Ready (holding [(1, x8 3), (5, x8 ones32)]) [1] ∧ Ready (holding [(1, x8 3), (5, x8 ones32)]) [5, 1] ∧
    (∀ k, lane ((holding [(1, x8 3), (5, x8 ones32)]).readV 5) k = ones32) :=
  ⟨⟨by decide +kernel, by decide +kernel⟩, ⟨by decide +kernel, by decide +kernel⟩, by decide +kernel⟩

/-- Two sources that differ, and two that coincide: VfaddAndVfmulComplete, VuaddAndVuaccComplete,
BitwiseCommandsComplete, VtestzCompletes, OrderedRelationsComplete, UnorderedNegatedRelationsComplete,
OrderednessAndMixedModesComplete, FourClassTable, ModesFourApartAreComplements. -/
theorem test_witness_TwoSourceStatements :
    Ready compareState [2, 3] ∧ Ready compareState [2, 2] ∧ Ready (holding [(0, 0), (15, 0)]) [15, 0] :=
  ⟨⟨by decide +kernel, by decide +kernel⟩, ⟨by decide +kernel, by decide +kernel⟩,
   ⟨by decide +kernel, by decide +kernel⟩⟩

theorem test_witness_VfmaddAndVfmsubComplete :
    Ready (holding [(2, 0), (3, 0), (4, 0)]) [2, 3, 4] ∧ Ready (holding [(2, 0)]) [2, 2, 2] :=
  ⟨⟨by decide +kernel, by decide +kernel⟩, ⟨by decide +kernel, by decide +kernel⟩⟩

/-- A finite sum and an infinite one. -/
theorem test_witness_AdditionFollowsTheRationalRule :
    isNaN (fadd32 0x3F800000 0x40000000) = false ∧ isNaN (fadd32 0x7F800000 0x3F800000) = false := by
  decide +kernel

/-- Zero, the smallest subnormal, the largest subnormal, the smallest normal, the largest finite value. -/
theorem test_witness_FloatsRoundToThemselves :
    isFinite 0x80000000 = true ∧ isFinite 0x00000001 = true ∧ isFinite 0x807FFFFF = true ∧
    isFinite 0x00800000 = true ∧ isFinite 0x7F7FFFFF = true := by
  decide

/-- `Vone` is `V5` with the integer 1 in every lane; `Vt` (9) is not `Va` (1). -/
theorem test_witness_VuaccEqualsAndnThenAdd :
    Ready (holding [(1, x8 7), (2, x8 ones32), (5, x8 1)]) [1, 2, 5] ∧ (9 : Reg) ≠ 1 ∧
    (∀ k, lane ((holding [(1, x8 7), (2, x8 ones32), (5, x8 1)]).readV 5) k = 1#32) :=
  ⟨⟨by decide +kernel, by decide +kernel⟩, by decide, by decide +kernel⟩

theorem test_witness_EscapeStepActsOnEveryLane :
    Ready (holding [(6, 0), (7, 0), (10, x8 ones32)]) [6, 7, 10] ∧ (6 : Reg) ≠ 7 :=
  ⟨⟨by decide +kernel, by decide +kernel⟩, by decide⟩

/-- A mask with bit 0 set; a sequence that leaves the mask zero; sequences of all-ones and all-zero lanes with and
without an escape. -/
theorem test_witness_EscapeStateIsMonotonicAndCounts :
    (1#32).getLsbD 0 = true ∧ ([0#32, 0#32].foldl escapeStep (0#32, 5#32)).1 = 0#32 ∧
    (∀ x ∈ [zero32, zero32, ones32, zero32], x = zero32 ∨ x = ones32) ∧
    (∀ x ∈ [zero32, zero32], x = zero32 ∨ x = ones32) :=
  ⟨by decide, by decide, by simp, by simp⟩

/-- Two mask vectors. -/
theorem test_witness_BitwiseIdentities :
    (∀ k, lane (quad true false true false) k = zero32 ∨ lane (quad true false true false) k = ones32) ∧
    (∀ k, lane (quad false false true true) k = zero32 ∨ lane (quad false false true true) k = ones32) := by
  decide +kernel

/-- The lowest and the highest address, and an address on a narrow platform's edge. -/
theorem test_witness_AdmittedStoreWritesThirtyTwoBytes :
    (Ready (holding [(1, x8 7)]) [1]) ∧
    [0x0#64, 0x1000#64, 0xFFFFFFFFFFFFFFE0#64].all (fun a =>
      decide ((scalar (holding [(1, x8 7)]) a).cmd.xs.toNat % 4 = 0) &&
      decide ((scalar (holding [(1, x8 7)]) a).cmd.xs.toNat ≤ 2 ^ 64 - 32) &&
      decide (∀ i : LaneIx, (scalar (holding [(1, x8 7)]) a).writableAt
        ((scalar (holding [(1, x8 7)]) a).cmd.xs.toNat + 4 * i.val) = true)) = true :=
  ⟨⟨by decide +kernel, by decide +kernel⟩, by decide +kernel⟩

/-- Misaligned inside and beyond the end; aligned and just beyond the highest legal address, and the last one. -/
theorem test_witness_MisalignedOrWrappingStoreWritesNothing :
    Ready (scalar (holding [(1, x8 7)]) 0x1001) [1] ∧
    [0x1001#64, 0x1003#64, 0xFFFFFFFFFFFFFFFE#64].all (fun a => decide (a.toNat % 4 ≠ 0)) = true ∧
    [0xFFFFFFFFFFFFFFE4#64, 0xFFFFFFFFFFFFFFFC#64].all (fun a =>
      decide (a.toNat % 4 = 0) && decide (2 ^ 64 - 32 < a.toNat)) = true :=
  ⟨⟨by decide +kernel, by decide +kernel⟩, by decide +kernel, by decide +kernel⟩

/-- X20: lanes 4 to 7 are not writable, lanes 0 to 3 are. -/
theorem test_witness_UnadmittedStoreLeavesOldOrNewWords :
    Ready (scalar (narrow (holding [(1, x8 7)])) 0x1000) [1] ∧
    (scalar (narrow (holding [(1, x8 7)])) 0x1000).cmd.xs.toNat % 4 = 0 ∧
    (scalar (narrow (holding [(1, x8 7)])) 0x1000).cmd.xs.toNat ≤ 2 ^ 64 - 32 ∧
    (∃ i : LaneIx, (scalar (narrow (holding [(1, x8 7)])) 0x1000).writableAt (0x1000 + 4 * i.val) = false) ∧
    (scalar (narrow (holding [(1, x8 7)])) 0x1000).writableAt 0x100C = true ∧
    (∃ t, exec (.vst 1) (scalar (narrow (holding [(1, x8 7)])) 0x1000) = .next t ∧ t.fcause = 5) ∧
    (∃ t, exec (.vst 1) (scalar (holding [(1, x8 7)]) 0x1002) = .next t ∧ t.fcause = 4) :=
  ⟨⟨by decide +kernel, by decide +kernel⟩, by decide, by decide, by decide +kernel, by decide +kernel,
   ⟨_, rfl, by decide +kernel⟩, ⟨_, rfl, by decide +kernel⟩⟩

/-- The reverse order. -/
theorem test_witness_OrderOfLaneWritesIsUnobservable : ([7, 6, 5, 4, 3, 2, 1, 0] : List LaneIx).Perm laneIxs := by
  decide

/-- Neighbouring stores, the second of which ends at the top of the address space. -/
theorem test_witness_DisjointStoresCommute :
    Memory.wf [(5, 1), (2 ^ 64 - 1, 3)] ∧ 2 ^ 64 - 64 + 32 ≤ 2 ^ 64 ∧ 2 ^ 64 - 32 + 32 ≤ 2 ^ 64 ∧
    2 ^ 64 - 64 + 32 ≤ 2 ^ 64 - 32 := by
  decide

/-- VbcastCompletes and ConstantModesReadNoRegister: nothing written yet. -/
theorem test_witness_NoSourceStatements : State.reset.faulted = false := rfl

theorem test_witness_VinsCompletes : Ready (holding [(15, x8 7)]) [15] :=
  ⟨by decide +kernel, by decide +kernel⟩

/-- The lowest and the highest invalid mode. -/
theorem test_witness_InvalidModeFaults :
    State.reset.faulted = false ∧
    32 ≤ (0x20#8).toNat ∧ 32 ≤ (0xFF#8).toNat ∧
    (pending State.reset [.command ⟨packWord 0x20 1 2 3 0 0x20, 0⟩]).inbox =
      .command ⟨packWord 0x20 1 2 3 0 0x20, 0⟩ :: [] ∧
    packWord 0x20 1 2 3 0 0x20 = 0x20123020#32 := by
  decide +kernel

/-- Finite lanes (subnormals and zeros among them), pairs with no NaN, and pairs with one. -/
theorem test_witness_RelationsFollowTheExactValues :
    [0x00000000#32, 0x80000000, 0x80000001, 0x007FFFFF, 0x7F7FFFFF].all isFinite = true ∧
    nanPair 0x7F800000 0x80000000 = false ∧ nanPair 0xFF800000 0xFF800000 = false ∧
    nanPair 0x7F800001 0x7F800000 = true ∧ nanPair 0x00000000 0xFFC00000 = true := by
  decide +kernel

/-- K26, K30: a signaling NaN on either side. -/
theorem test_witness_NanPairsDependOnTheModeAlone :
    (isNaN 0x7F800001 = true ∨ isNaN 0x3F800000 = true) ∧ (isNaN 0x00000000 = true ∨ isNaN 0xFFBFFFFF = true) := by
  decide

/-- R191: a store interrupted by a reset; and, for the last clause, a faulted unit, an unwritten source, a misaligned and a
wrapping address. -/
theorem test_witness_ResetDuringACommand :
    (pending (holding [(1, x8 7)]) [.resetDuring ⟨0x18010000, 0x1000⟩]).inbox =
      .resetDuring ⟨0x18010000, 0x1000⟩ :: [] ∧
    decode 0x18010000 = .ok (.vst 1) ∧ (holding [(1, x8 7)]).writableAt 0x101C = true ∧
    faultedState.faulted = true ∧ State.reset.valid 1 = false ∧ (0x1002#64).toNat % 4 ≠ 0 ∧
    2 ^ 64 - 32 < (0xFFFFFFFFFFFFFFE4#64).toNat := by
  decide +kernel

end Sys2Proof.Tests
end

section
/-! PROOFS. A register or its valid bit changes only by a command that writes it, or by reset (R13, R28). -/

namespace Sys2Proof.Machine

/-- The contents or the valid bit of `r` differ between the two states. -/
def RegisterChanged (s t : State) (r : Reg) : Prop := t.valid r ≠ s.valid r ∨ t.readV r ≠ s.readV r

/-- `r` is the destination of `i`, is valid in `t`, and `t` answers one more `OK` than `s`. -/
def WrittenBy (i : Instr) (s t : State) (r : Reg) : Prop :=
  i.dest = some r ∧ t.valid r = true ∧ ∃ z, t.responses = s.responses ++ [⟨.ok, z⟩]

variable {s t : State} {r : Reg}

theorem not_registerChanged (hv : t.v = s.v) (hvv : t.vv = s.vv) (r : Reg) : ¬ RegisterChanged s t r := by
  simp [RegisterChanged, State.valid, State.readV, hv, hvv]

theorem storeVector_v (ra : Reg) (s : State) : (storeVector ra s).v = s.v := by
  rcases storeVector_cases ra s with ⟨-, h⟩ | ⟨-, -, h⟩ | ⟨-, -, -, h⟩ | ⟨-, -, -, h⟩ <;>
    simp only [h, raise_v, finishOk_v]

theorem storeVector_vv (ra : Reg) (s : State) : (storeVector ra s).vv = s.vv := by
  rcases storeVector_cases ra s with ⟨-, h⟩ | ⟨-, -, h⟩ | ⟨-, -, -, h⟩ | ⟨-, -, -, h⟩ <;>
    simp only [h, raise_vv, finishOk_vv]

theorem Effect.writtenBy_of_registerChanged {i : Instr} (he : Effect s i t) (hc : RegisterChanged s t r) :
    WrittenBy i s t r := by
  cases he with
  | writes _ rd x hd =>
    by_cases hr : r = rd
    · subst hr
      exact ⟨hd, valid_finishWrite_same s r x, s.z, rfl⟩
    · exact hc.elim (absurd (valid_finishWrite_other s x hr)) (absurd (readV_finishWrite_other s x hr))
  | tests ra rb => exact absurd hc (not_registerChanged rfl rfl r)
  | stores ra => exact absurd hc (not_registerChanged (storeVector_v ra s) (storeVector_vv ra s) r)
  | invalid rd ra rb m => exact absurd hc (not_registerChanged rfl rfl r)

theorem exec_writtenBy_of_registerChanged {i : Instr} (h : exec i s = .next t) (hc : RegisterChanged s t r) :
    WrittenBy i s t r := by
  rcases exec_cases h with ⟨-, rfl⟩ | ⟨-, -, rfl⟩ | ⟨-, he⟩
  · exact absurd hc (not_registerChanged rfl rfl r)
  · exact absurd hc (not_registerChanged rfl rfl r)
  · exact he.writtenBy_of_registerChanged hc

theorem step_command_writtenBy_of_registerChanged {c : Command} {rest : List HostAction}
    (hi : s.inbox = .command c :: rest) (h : step s = .next t) (hc : RegisterChanged s t r) :
    ∃ i, decode c.w = .ok i ∧ WrittenBy i s t r := by
  rw [step_command hi] at h
  split at h
  · injection h with h
    subst h
    exact absurd hc (not_registerChanged rfl rfl r)
  · split at h
    · injection h with h
      subst h
      exact absurd hc (not_registerChanged rfl rfl r)
    · next i hd =>
      have hw := exec_writtenBy_of_registerChanged (r := r) h hc
      exact ⟨i, hd, hw⟩

/-- Settles O16, by cases on the pending action: only a reset, or a command by its effect, touches a register. -/
theorem validBitsTrackRegisterWrites : Obligations.ValidBitsTrackRegisterWrites := by
  intro s t r hstep hc
  match hi : s.inbox with
  | [] =>
    rw [step_idle hi] at hstep
    injection hstep with h
    subst h
    exact absurd hc (not_registerChanged rfl rfl r)
  | .reset :: rest => exact .inl ⟨_, _, hi, rfl⟩
  | .resetDuring c :: rest => exact .inl ⟨_, _, hi, rfl⟩
  | .memWrite a b :: rest =>
    rw [step_memWrite hi] at hstep
    injection hstep with h
    subst h
    exact absurd hc (not_registerChanged rfl rfl r)
  | .command c :: rest =>
    obtain ⟨i, hd, hdest, hvalid, hok⟩ := step_command_writtenBy_of_registerChanged hi hstep hc
    exact .inr ⟨c, rest, i, rfl, hd, hdest, hvalid, hok⟩

end Sys2Proof.Machine
end

section
/-! PROOFS. `round32` on integers is `round32` of rule R12 on rationals. Both are cut into the exponent `E`, the
rounding of `m` to an integer, and the packing of that integer, which they share. -/

namespace Sys2Proof.Machine

/-- `E` of rule R12 for the rational `n / 2^k`. -/
def roundExponent (n k : Nat) : Int := max ((n.log2 : Int) - k) (-126)

/-- `num / den` rounded to an integer, ties to even, as `round32` does it. -/
def divRoundEven (num den : Nat) : Nat :=
  if den < 2 * (num % den) ∨ (2 * (num % den) = den ∧ num / den % 2 = 1) then num / den + 1 else num / den

/-- `m` rounded to an integer, ties to even, as `round32Q` does it. -/
def roundEvenQ (m : ℚ) : Int :=
  if 1 / 2 < m - ⌊m⌋ ∨ (m - ⌊m⌋ = 1 / 2 ∧ ⌊m⌋ % 2 = 1) then ⌊m⌋ + 1 else ⌊m⌋

/-- The end of rule R12, once `m` is rounded to `n1`: carry, overflow, and the packing of the fields. -/
def packRounded (s : Bool) (n1 bigE : Int) : Lane :=
  let n2 := if n1 = 2 ^ 24 then 2 ^ 23 else n1
  let bigE2 := if n1 = 2 ^ 24 then bigE + 1 else bigE
  if 127 < bigE2 then infinity s
  else if n2 < 2 ^ 23 then packFloat s 0 (BitVec.ofInt 23 n2)
  else packFloat s (BitVec.ofInt 8 (bigE2 + 127)) (BitVec.ofInt 23 (n2 - 2 ^ 23))

theorem round32Q_of_ne_zero (s : Bool) {q : ℚ} (hq : q ≠ 0) :
    round32Q s q = packRounded s (roundEvenQ (q / 2 ^ (max (Int.log 2 q) (-126) - 23)))
      (max (Int.log 2 q) (-126)) := if_neg hq

/-! ### The packing, one lemma per case -/

theorem packRounded_carry (s : Bool) (bigE : Int) :
    packRounded s (2 ^ 24) bigE = packRounded s (2 ^ 23) (bigE + 1) := by
  simp [packRounded]

theorem packRounded_overflow (s : Bool) {n1 bigE : Int} (hc : n1 ≠ 2 ^ 24) (hE : 127 < bigE) :
    packRounded s n1 bigE = infinity s := by
  simp only [packRounded, if_neg hc, if_pos hE]

theorem packRounded_subnormal (s : Bool) {n1 : Nat} {bigE : Int} (hE : bigE ≤ 127) (hn : n1 < 2 ^ 23) :
    packRounded s n1 bigE = packFloat s 0 (BitVec.ofNat 23 n1) := by
  have hc : (n1 : Int) ≠ 2 ^ 24 := by omega
  have hlt : (n1 : Int) < 2 ^ 23 := mod_cast hn
  simp only [packRounded, if_neg hc, if_neg (not_lt.2 hE), if_pos hlt, BitVec.ofInt_natCast]

theorem packRounded_normal (s : Bool) {n1 : Nat} {bigE : Int} (hlow : -126 ≤ bigE) (hE : bigE ≤ 127)
    (hn : 2 ^ 23 ≤ n1) (hc : n1 ≠ 2 ^ 24) :
    packRounded s n1 bigE =
      packFloat s (BitVec.ofNat 8 (bigE + 127).toNat) (BitVec.ofNat 23 (n1 - 2 ^ 23)) := by
  have hc' : (n1 : Int) ≠ 2 ^ 24 := mod_cast hc
  have hlt : ¬ (n1 : Int) < 2 ^ 23 := by omega
  simp only [packRounded, if_neg hc', if_neg (not_lt.2 hE), if_neg hlt]
  rw [← BitVec.ofInt_natCast, ← BitVec.ofInt_natCast, Int.toNat_of_nonneg (by omega), Nat.cast_sub hn]
  rfl

theorem round32_of_ne_zero (s : Bool) {n : Nat} (k : Nat) (hn : n ≠ 0) :
    round32 s n k = packRounded s
      (divRoundEven (n * 2 ^ (23 - roundExponent n k - k).toNat) (2 ^ (roundExponent n k + k - 23).toNat))
      (roundExponent n k) := by
  refine (if_neg hn).trans ?_
  extract_lets bigE num den q rem rounded q' bigE'
  change _ = packRounded s rounded bigE
  have hlow : -126 ≤ bigE := le_max_right _ _
  have hcarry : packRounded s rounded bigE = packRounded s q' bigE' ∧ q' ≠ 2 ^ 24 ∧ -126 ≤ bigE' := by
    by_cases hc : rounded = 2 ^ 24
    · simp only [q', bigE', if_pos hc]
      rw [hc]
      exact ⟨packRounded_carry s bigE, by decide, by omega⟩
    · simp only [q', bigE', if_neg hc]
      exact ⟨trivial, hc, hlow⟩
  obtain ⟨hpack, hq', hE'⟩ := hcarry
  rw [hpack]
  split_ifs with hover hsub
  · exact (packRounded_overflow s (mod_cast hq') hover).symm
  · exact (packRounded_subnormal s (not_lt.1 hover) hsub).symm
  · exact (packRounded_normal s hE' (not_lt.1 hover) (not_lt.1 hsub) hq').symm

/-! ### The rounding to an integer -/

theorem half_lt_div_iff (r : Nat) {d : Nat} (hd : 0 < d) : (1 / 2 : ℚ) < r / d ↔ d < 2 * r := by
  rw [div_lt_div_iff₀ two_pos (by exact_mod_cast hd)]
  norm_cast
  omega

theorem div_eq_half_iff (r : Nat) {d : Nat} (hd : 0 < d) : (r / d : ℚ) = 1 / 2 ↔ 2 * r = d := by
  rw [div_eq_div_iff (by exact_mod_cast hd.ne') two_ne_zero]
  norm_cast
  omega

theorem roundEvenQ_div (num : Nat) {den : Nat} (hd : 0 < den) :
    roundEvenQ ((num : ℚ) / den) = divRoundEven num den := by
  have hfloor : ⌊(num : ℚ) / den⌋ = ((num / den : Nat) : Int) := by
    rw [Rat.floor_natCast_div_natCast, Int.natCast_ediv]
  have hrem : (num : ℚ) / den - ((num / den : Nat) : Int) = (num % den : Nat) / den := by
    rw [← hfloor]
    exact Int.fract_div_natCast_eq_div_natCast_mod
  have hodd : ((num / den : Nat) : Int) % 2 = 1 ↔ num / den % 2 = 1 := by omega
  simp only [roundEvenQ, divRoundEven, hfloor, hrem, half_lt_div_iff _ hd, div_eq_half_iff _ hd, hodd]
  split_ifs <;> rfl

/-! ### The exponent and the scaling -/

theorem log_div_two_pow {n : Nat} (k : Nat) (hn : n ≠ 0) : Int.log 2 ((n : ℚ) / 2 ^ k) = n.log2 - k := by
  have hpos : (0 : ℚ) < (n : ℚ) / 2 ^ k := by positivity
  have hpow (j : Nat) : ((2 : Nat) : ℚ) ^ ((j : Int) - k) = 2 ^ j / 2 ^ k := by
    rw [Nat.cast_ofNat, zpow_sub₀ two_ne_zero, zpow_natCast, zpow_natCast]
  refine le_antisymm (Int.lt_add_one_iff.1 ?_) ?_
  · have hlt : (n : ℚ) < 2 ^ (n.log2 + 1) := mod_cast Nat.lt_log2_self
    have he : (n.log2 : Int) - k + 1 = (n.log2 + 1 : Nat) - k := by omega
    rw [← Int.lt_zpow_iff_log_lt one_lt_two hpos, he, hpow]
    gcongr
  · have hle : (2 : ℚ) ^ n.log2 ≤ n := mod_cast Nat.log2_self_le hn
    rw [← Int.zpow_le_iff_le_log one_lt_two hpos, hpow]
    gcongr

/-- `m` of rule R12 as a quotient of natural numbers; at most one of the two powers is not 1. -/
theorem div_two_pow_scaled (n k : Nat) (e : Int) :
    (n : ℚ) / 2 ^ k / 2 ^ (e - 23) =
      ((n * 2 ^ (23 - e - k).toNat : Nat) : ℚ) / ((2 ^ (e + k - 23).toNat : Nat) : ℚ) := by
  push_cast
  rw [div_div, div_eq_div_iff (by positivity) (by positivity), mul_assoc]
  simp only [← zpow_natCast, ← zpow_add₀ (two_ne_zero (α := ℚ))]
  congr 2
  omega

theorem round32_eq_round32Q (s : Bool) (n k : Nat) : round32 s n k = round32Q s ((n : ℚ) / 2 ^ k) := by
  by_cases hn : n = 0
  · simp [hn, round32, round32Q]
  · have hq : (n : ℚ) / 2 ^ k ≠ 0 := by positivity
    rw [round32_of_ne_zero s k hn, round32Q_of_ne_zero s hq, log_div_two_pow k hn, div_two_pow_scaled,
      roundEvenQ_div _ (by positivity)]
    rfl

/-- Settles O28: exponent, rounding and packing agree one by one. -/
theorem roundingFollowsTheRationalRule : Obligations.RoundingFollowsTheRationalRule := round32_eq_round32Q

end Sys2Proof.Machine
end

section
/-! PROOFS. The fields and the exact magnitude of a float, and that rounding the magnitude gives the float back
(R10, R11, R12). -/

namespace Sys2Proof.Machine

variable {x : Lane}

/-! ### Fields and classes -/

theorem packFloat_fields (x : Lane) : packFloat (signBit x) (expField x) (fracField x) = x := by
  apply BitVec.eq_of_getLsbD_eq
  intro i hi
  simp only [packFloat, signBit, expField, fracField, BitVec.getLsbD_append, BitVec.getLsbD_extractLsb',
    BitVec.getLsbD_ofBool]
  split_ifs with hfrac hexp
  · simp [hfrac]
  · have hi : 23 + (i - 23) = i := by omega
    simp [hexp, hi]
  · have h31 : i = 31 := by omega
    simp [h31]

theorem eq_zeroOf_of_isZero (h : isZero x = true) : x = zeroOf (signBit x) := by
  obtain ⟨he, hf⟩ : expField x = 0#8 ∧ fracField x = 0#23 := by simpa [isZero] using h
  conv_lhs => rw [← packFloat_fields x, he, hf]
  rfl

theorem eq_infinity_of_isInf (h : isInf x = true) : x = infinity (signBit x) := by
  obtain ⟨he, hf⟩ : expField x = 0xFF#8 ∧ fracField x = 0#23 := by simpa [isInf] using h
  conv_lhs => rw [← packFloat_fields x, he, hf]
  rfl

@[simp] theorem isNaN_infinity (s : Bool) : isNaN (infinity s) = false := by cases s <;> decide

theorem isFinite_of_isZero (h : isZero x = true) : isFinite x = true := by
  simp_all [isZero, isFinite]

theorem isNaN_of_isFinite (h : isFinite x = true) : isNaN x = false := by
  simp_all [isFinite, isNaN]

theorem isInf_of_isFinite (h : isFinite x = true) : isInf x = false := by
  simp_all [isFinite, isInf]

theorem isFinite_or_isInf (h : isNaN x = false) : isFinite x = true ∨ isInf x = true := by
  by_cases he : expField x = 0xFF#8
  · right
    simpa [isNaN, isInf, he] using h
  · left
    simpa [isFinite] using he

theorem toNat_expField_ne_zero (h : expField x ≠ 0#8) : (expField x).toNat ≠ 0 :=
  fun h0 => h (BitVec.eq_of_toNat_eq h0)

theorem toNat_expField_lt_of_isFinite (h : isFinite x = true) : (expField x).toNat < 255 := by
  have hlt := (expField x).isLt
  have hne : (expField x).toNat ≠ 255 := fun h255 => by
    have he : expField x = 0xFF#8 := BitVec.eq_of_toNat_eq h255
    simp [isFinite, he] at h
  omega

/-! ### The exact magnitude -/

/-- The integer significand: the fraction, with the implicit bit if the exponent field is not 0 (R11). -/
def significand (x : Lane) : Nat :=
  if expField x = 0#8 then (fracField x).toNat else 2 ^ 23 + (fracField x).toNat

theorem significand_of_subnormal (h : expField x = 0#8) : significand x = (fracField x).toNat := if_pos h

theorem significand_of_normal (h : expField x ≠ 0#8) : significand x = 2 ^ 23 + (fracField x).toNat := if_neg h

theorem magUnits_eq_significand (x : Lane) : magUnits x = significand x * 2 ^ ((expField x).toNat - 1) := by
  unfold magUnits significand
  split_ifs with he
  · simp [he]
  · rfl

theorem isZero_iff_magUnits (x : Lane) : isZero x = true ↔ magUnits x = 0 := by
  rw [isZero, Bool.and_eq_true, beq_iff_eq, beq_iff_eq, magUnits_eq_significand, Nat.mul_eq_zero]
  by_cases he : expField x = 0#8
  · simp [significand_of_subnormal he, he, ← BitVec.toNat_inj]
  · simp [significand_of_normal he, he]

/-! ### Rounding it -/

theorem divRoundEven_mul (m : Nat) {d : Nat} (hd : 0 < d) : divRoundEven (m * d) d = m := by
  simp [divRoundEven, Nat.mul_div_cancel m hd, hd.ne]

theorem log2_mul_two_pow {m : Nat} (hm : m ≠ 0) (u : Nat) : (m * 2 ^ u).log2 = m.log2 + u := by
  induction u with
  | zero => simp
  | succ u ih => rw [pow_succ', mul_left_comm, Nat.log2_two_mul (by positivity), ih, add_assoc]

/-- `E` is the exponent of the float's own significand: the subnormals share the one of the smallest normals. -/
theorem roundExponent_magUnits (h : magUnits x ≠ 0) :
    roundExponent (magUnits x) 149 = ((expField x).toNat - 1 : Nat) - 126 := by
  have hf := (fracField x).isLt
  rw [magUnits_eq_significand] at h ⊢
  have hsig : significand x ≠ 0 := left_ne_zero_of_mul h
  rw [roundExponent, log2_mul_two_pow hsig]
  by_cases he : expField x = 0#8
  · have hlog : (significand x).log2 < 23 := by
      rwa [Nat.log2_lt hsig, significand_of_subnormal he]
    simp [he]
    omega
  · have hs := significand_of_normal he
    have hlog : (significand x).log2 = 23 := (Nat.log2_eq_iff hsig).2 (by omega)
    have hpos := toNat_expField_ne_zero he
    omega

theorem round32_magUnits (s : Bool) (h : magUnits x ≠ 0) :
    round32 s (magUnits x) 149 = packRounded s (significand x) (((expField x).toNat - 1 : Nat) - 126) := by
  have hnum : (23 - (((expField x).toNat - 1 : Nat) - 126 : Int) - (149 : Nat)).toNat = 0 := by omega
  have hden : ((((expField x).toNat - 1 : Nat) - 126 : Int) + (149 : Nat) - 23).toNat = (expField x).toNat - 1 := by
    omega
  rw [round32_of_ne_zero s 149 h, roundExponent_magUnits h, hnum, hden, magUnits_eq_significand, pow_zero, mul_one,
    divRoundEven_mul _ (by positivity)]

theorem packRounded_significand (hx : isFinite x = true) :
    packRounded (signBit x) (significand x) (((expField x).toNat - 1 : Nat) - 126) = x := by
  have hf := (fracField x).isLt
  conv_rhs => rw [← packFloat_fields x]
  by_cases he : expField x = 0#8
  · rw [significand_of_subnormal he, packRounded_subnormal _ (by simp [he]) hf, he, BitVec.ofNat_toNat,
      BitVec.setWidth_eq]
    rfl
  · have hpos := toNat_expField_ne_zero he
    have hlt := toNat_expField_lt_of_isFinite hx
    have hexp : ((((expField x).toNat - 1 : Nat) - 126 : Int) + 127).toNat = (expField x).toNat := by omega
    rw [significand_of_normal he, packRounded_normal _ (by omega) (by omega) (by omega) (by omega), hexp]
    simp

theorem round32_self (hx : isFinite x = true) : round32 (signBit x) (magUnits x) 149 = x := by
  by_cases hz : magUnits x = 0
  · rw [hz]
    exact (eq_zeroOf_of_isZero ((isZero_iff_magUnits x).2 hz)).symm
  · rw [round32_magUnits _ hz, packRounded_significand hx]

/-- Settles O32: the magnitude is the significand on its own grid, so nothing is rounded off. -/
theorem floatsRoundToThemselves : Obligations.FloatsRoundToThemselves := fun _ => round32_self

end Sys2Proof.Machine
end

section
/-! PROOFS. The five relations are the order of the exact values, the infinities outermost (R11, R131, R132). -/

namespace Sys2Proof.Machine

variable {a b x : Lane}

/-! ### Exact values -/

theorem magQ_eq_magUnits (x : Lane) : magQ x = magUnits x * (2 : ℚ) ^ (-149 : ℤ) := by
  unfold magQ magUnits
  split_ifs with he
  · rfl
  · have hpos := toNat_expField_ne_zero he
    have hexp : ((expField x).toNat - 150 : ℤ) = ((expField x).toNat - 1 : Nat) + -149 := by omega
    rw [hexp, zpow_add₀ two_ne_zero, zpow_natCast]
    push_cast
    ring

theorem valQ_eq_valUnits (x : Lane) : valQ x = valUnits x * (2 : ℚ) ^ (-149 : ℤ) := by
  unfold valQ valUnits
  split_ifs <;> simp [magQ_eq_magUnits]

theorem valQ_lt_iff (a b : Lane) : valQ a < valQ b ↔ valUnits a < valUnits b := by
  rw [valQ_eq_valUnits, valQ_eq_valUnits, mul_lt_mul_iff_left₀ (by positivity), Int.cast_lt]

theorem valQ_eq_iff (a b : Lane) : valQ a = valQ b ↔ valUnits a = valUnits b := by
  rw [valQ_eq_valUnits, valQ_eq_valUnits, mul_left_inj' (by positivity), Int.cast_inj]

theorem valUnits_eq_zero_iff (x : Lane) : valUnits x = 0 ↔ isZero x = true := by
  rw [isZero_iff_magUnits, valUnits]
  split_ifs <;> simp

/-- Two lanes of the same value other than 0 have the same sign and the same magnitude. -/
theorem signBit_magUnits_eq (hz : valUnits a ≠ 0) (h : valUnits a = valUnits b) :
    signBit a = signBit b ∧ magUnits a = magUnits b := by
  unfold valUnits at h hz
  split_ifs at h hz with hsa hsb hsb
  · exact ⟨hsa.trans hsb.symm, by omega⟩
  · omega
  · omega
  · exact ⟨Bool.eq_iff_iff.2 (iff_of_false hsa hsb), by omega⟩

/-- A finite float other than 0 is the only one of its value, since it is the rounding of it. -/
theorem eq_or_isZero_of_valUnits_eq (ha : isFinite a = true) (hb : isFinite b = true)
    (h : valUnits a = valUnits b) : a = b ∨ (isZero a = true ∧ isZero b = true) := by
  by_cases hz : valUnits a = 0
  · exact .inr ⟨(valUnits_eq_zero_iff a).1 hz, (valUnits_eq_zero_iff b).1 (h ▸ hz)⟩
  · obtain ⟨hsign, hmag⟩ := signBit_magUnits_eq hz h
    exact .inl (by rw [← round32_self ha, hsign, hmag, round32_self hb])

/-! ### Values extended to the infinities -/

theorem extValue_of_isFinite (h : isFinite x = true) : extValue x = .finite (valUnits x) := by
  simp [extValue, isInf_of_isFinite h]

theorem extValue_of_isZero (h : isZero x = true) : extValue x = .finite 0 := by
  rw [extValue_of_isFinite (isFinite_of_isZero h), (valUnits_eq_zero_iff x).2 h]

@[simp] theorem extValue_infinity (s : Bool) : extValue (infinity s) = if s then .negInf else .posInf := by
  cases s <;> decide

theorem eq_of_isInf_of_extValue_eq (ha : isInf a = true) (h : extValue a = extValue b) : a = b := by
  have hb : isInf b = true ∧ signBit a = signBit b := by
    rw [extValue, extValue, if_pos ha] at h
    split_ifs at h <;> simp_all
  obtain ⟨hinf, hsign⟩ := hb
  rw [eq_infinity_of_isInf ha, hsign, ← eq_infinity_of_isInf hinf]

theorem extValue_eq_iff (ha : isNaN a = false) (hb : isNaN b = false) :
    extValue a = extValue b ↔ a = b ∨ (isZero a = true ∧ isZero b = true) := by
  constructor
  · intro h
    rcases isFinite_or_isInf ha with hfa | hia
    · rcases isFinite_or_isInf hb with hfb | hib
      · rw [extValue_of_isFinite hfa, extValue_of_isFinite hfb] at h
        exact eq_or_isZero_of_valUnits_eq hfa hfb (ExtValue.finite.inj h)
      · exact .inl (eq_of_isInf_of_extValue_eq hib h.symm).symm
    · exact .inl (eq_of_isInf_of_extValue_eq hia h)
  · rintro (rfl | ⟨hza, hzb⟩)
    · rfl
    · rw [extValue_of_isZero hza, extValue_of_isZero hzb]

theorem ExtValue.lt_trichotomy (x y : ExtValue) :
    (x.lt y = true ∧ x ≠ y ∧ y.lt x = false) ∨ (x.lt y = false ∧ x = y ∧ y.lt x = false) ∨
    (x.lt y = false ∧ x ≠ y ∧ y.lt x = true) := by
  cases x <;> cases y <;> simp [ExtValue.lt]
  case finite.finite m n => omega

/-! ### The relations -/

theorem nanPair_eq_false_iff (a b : Lane) : nanPair a b = false ↔ isNaN a = false ∧ isNaN b = false :=
  Bool.or_eq_false_iff

theorem nanPair_comm (a b : Lane) : nanPair a b = nanPair b a := Bool.or_comm ..

theorem relEq_iff (h : nanPair a b = false) : relEq a b = true ↔ extValue a = extValue b := by
  simp [relEq, h]

theorem relLt_eq (h : nanPair a b = false) : relLt a b = (extValue a).lt (extValue b) := by
  simp [relLt, h]

theorem relLe_eq (h : nanPair a b = false) : relLe a b = (relLt a b || relEq a b) := by
  simp [relLe, relLt, relEq, h]

theorem relGt_eq_relLt_swap (a b : Lane) : relGt a b = relLt b a := by
  rw [relGt, relLt, nanPair_comm]

theorem relGe_eq_relLe_swap (a b : Lane) : relGe a b = relLe b a := by
  rw [relGe, relLe, nanPair_comm, Bool.beq_comm]

theorem relations_of_nanPair (h : nanPair a b = true) :
    relEq a b = false ∧ relLt a b = false ∧ relLe a b = false ∧ relGt a b = false ∧ relGe a b = false := by
  simp [relEq, relLt, relLe, relGt, relGe, h]

theorem relations_iff_of_isFinite (ha : isFinite a = true) (hb : isFinite b = true) :
    (relLt a b = true ↔ valQ a < valQ b) ∧ (relEq a b = true ↔ valQ a = valQ b) ∧
    (relLe a b = true ↔ valQ a ≤ valQ b) := by
  have h := (nanPair_eq_false_iff a b).2 ⟨isNaN_of_isFinite ha, isNaN_of_isFinite hb⟩
  have hlt : relLt a b = true ↔ valQ a < valQ b := by
    rw [relLt_eq h, extValue_of_isFinite ha, extValue_of_isFinite hb, valQ_lt_iff, ExtValue.lt, decide_eq_true_iff]
  have heq : relEq a b = true ↔ valQ a = valQ b := by
    rw [relEq_iff h, extValue_of_isFinite ha, extValue_of_isFinite hb, valQ_eq_iff, ExtValue.finite.injEq]
  exact ⟨hlt, heq, by rw [relLe_eq h, Bool.or_eq_true, hlt, heq, le_iff_lt_or_eq]⟩

theorem relLt_infinity_of_isFinite (h : isFinite x = true) :
    relLt (infinity true) x = true ∧ relLt x (infinity false) = true := by
  have hx := isNaN_of_isFinite h
  rw [relLt_eq ((nanPair_eq_false_iff _ _).2 ⟨isNaN_infinity true, hx⟩),
    relLt_eq ((nanPair_eq_false_iff _ _).2 ⟨hx, isNaN_infinity false⟩),
    extValue_infinity, extValue_infinity, extValue_of_isFinite h]
  exact ⟨rfl, rfl⟩

theorem relations_trichotomy (h : nanPair a b = false) :
    (relLt a b = true ∧ relEq a b = false ∧ relGt a b = false) ∨
    (relLt a b = false ∧ relEq a b = true ∧ relGt a b = false) ∨
    (relLt a b = false ∧ relEq a b = false ∧ relGt a b = true) := by
  have h' : nanPair b a = false := nanPair_comm a b ▸ h
  simp only [← Bool.not_eq_true (relEq a b), relEq_iff h, relGt_eq_relLt_swap, relLt_eq h, relLt_eq h']
  exact ExtValue.lt_trichotomy _ _

/-- Settles O55: on lanes that are no NaNs the relations are those of `extValue`, which on the finite ones is `valQ` in
units of `2^-149`, and which two different lanes share only if both are zeros. -/
theorem relationsFollowTheExactValues : Obligations.RelationsFollowTheExactValues := by
  refine ⟨fun a b ha hb => ?_, fun _ => relLt_infinity_of_isFinite, ⟨by decide, by decide⟩,
    fun _ _ => relations_trichotomy, fun a b h => ?_,
    fun a b h => ⟨relLe_eq h, relGt_eq_relLt_swap a b, relGe_eq_relLe_swap a b⟩, fun _ _ => relations_of_nanPair⟩
  · obtain ⟨hlt, heq, hle⟩ := relations_iff_of_isFinite ha hb
    obtain ⟨hgt, -, hge⟩ := relations_iff_of_isFinite hb ha
    rw [relGt_eq_relLt_swap, relGe_eq_relLe_swap]
    exact ⟨hlt, heq, hle, hgt, hge⟩
  · obtain ⟨ha, hb⟩ := (nanPair_eq_false_iff a b).1 h
    rw [relEq_iff h, extValue_eq_iff ha hb]

end Sys2Proof.Machine
end

section
/-! PROOFS. Everything a command and a step of the machine can do, each said once: the outcome of a decoded command with
the fault it reports (R36, R174), and the outcome of a step by the pending action (R35, R190, R191). -/

namespace Sys2Proof.Machine

variable {s t : State} {i : Instr} {d : Except DecodeError Instr} {c : Command} {rest : List HostAction}

/-! ### What an outcome is -/

/-- `m'` is `m` but for bytes among the 32 at `a`, and is in canonical form if `m` is. -/
structure Memory.ChangedByStoreAt (a : Nat) (m m' : Memory) : Prop where
  outside : ∀ x, x < a ∨ a + 32 ≤ x → m'.read x = m.read x
  wf : m.wf → m'.wf

/-- The fault reported for a word that decodes to `d` (R174). -/
def decodedFault (s : State) (a : Word64) : Except DecodeError Instr → Option FaultCause
  | .error _ => some .illegalCommand
  | .ok i => instrFault s a i

/-- What the unit can do with the command in progress, whose word decodes to `d` (R36). -/
inductive CommandOutcome (s : State) (d : Except DecodeError Instr) : State → Prop where
  | refused (hf : s.faulted = true) : CommandOutcome s d s.refuse
  | raised {f : FaultCause} (hf : s.faulted = false) (h : decodedFault s s.cmd.xs d = some f) :
      CommandOutcome s d (s.raise f)
  | unadmitted {ra : Reg} {m : Memory} {n : Nat} (hf : s.faulted = false)
      (h : decodedFault s s.cmd.xs d = some .storeAccess) (hd : d = .ok (.vst ra))
      (hm : Memory.ChangedByStoreAt s.cmd.xs.toNat s.mem m) :
      CommandOutcome s d ({ s with mem := m, draws := n }.raise .storeAccess)
  | written {i : Instr} {rd : Reg} {x : VReg} (hf : s.faulted = false) (h : decodedFault s s.cmd.xs d = none)
      (hd : d = .ok i) (hdest : i.dest = some rd) : CommandOutcome s d (s.finishWrite rd x)
  | tested {ra rb : Reg} {b : Bool} (hf : s.faulted = false) (h : decodedFault s s.cmd.xs d = none)
      (hd : d = .ok (.vtestz ra rb)) : CommandOutcome s d (s.finishTest b)
  | stored {ra : Reg} {m : Memory} (hf : s.faulted = false) (h : decodedFault s s.cmd.xs d = none)
      (hd : d = .ok (.vst ra)) (hm : Memory.ChangedByStoreAt s.cmd.xs.toNat s.mem m) :
      CommandOutcome s d { s with mem := m }.finishOk

/-- What a step can do with the host's next action. -/
inductive StepOutcome (s : State) : State → Prop where
  | idle (hi : s.inbox = []) : StepOutcome s s
  | reset {rest : List HostAction} (hi : s.inbox = .reset :: rest) : StepOutcome s { s with inbox := rest }.resetEvent
  | interrupted {c : Command} {rest : List HostAction} {m : Memory} (hi : s.inbox = .resetDuring c :: rest)
      (hm : s.mem.wf → m.wf) : StepOutcome s { s with inbox := rest, cmd := c, mem := m }.resetEvent
  | hostWrite {a : Word64} {b : Byte} {rest : List HostAction} (hi : s.inbox = .memWrite a b :: rest) :
      StepOutcome s ({ s with inbox := rest }.hostWrite a b)
  | command {c : Command} {rest : List HostAction} {t : State} (hi : s.inbox = .command c :: rest)
      (ho : CommandOutcome { s with inbox := rest, cmd := c } (decode c.w) t) : StepOutcome s t

/-! ### The fault of an instruction -/

theorem instrFault_of_uninit (a : Word64) (h : ∃ r ∈ i.sources, s.valid r = false) :
    instrFault s a i = some .uninitRead := by
  have hn : ¬ ∀ r ∈ i.sources, s.valid r = true := by simpa using h
  unfold instrFault
  split
  case h_1 => simp [Instr.sources] at h
  case h_2 ra => exact if_neg (by simpa [Instr.sources] using hn)
  case h_3 => exact if_neg hn

theorem instrFault_of_ready_of_dest {rd : Reg} (a : Word64) (hr : Ready s i.sources) (hdest : i.dest = some rd) :
    instrFault s a i = none := by
  unfold instrFault
  split
  case h_1 => cases hdest
  case h_2 => cases hdest
  case h_3 => exact if_pos hr.2

theorem instrFault_vst {ra : Reg} (a : Word64) (hr : Ready s [ra]) : instrFault s a (.vst ra) = storeFault s a :=
  if_pos (hr.2 ra List.mem_cons_self)

theorem Memory.changedByStoreAt_storeLanes (m : Memory) {a : Word64} (v : VReg) (sel : LaneIx → Bool)
    (ha : a.toNat ≤ 2 ^ 64 - 32) : m.ChangedByStoreAt a.toNat (m.storeLanes a.toNat v sel laneIxs) where
  outside x hx := Memory.read_storeLanes_outside laneIxs m a.toNat x v sel hx
  wf h := Memory.wf_storeLanes laneIxs v sel h (by omega)

/-! ### The outcome of a command -/

/-- A store reports the fault that `storeFault` names. -/
theorem storeVector_outcome {ra : Reg} (hr : Ready s [ra]) : CommandOutcome s (.ok (.vst ra)) (storeVector ra s) := by
  have hfault : decodedFault s s.cmd.xs (.ok (.vst ra)) = storeFault s s.cmd.xs := instrFault_vst _ hr
  unfold storeFault at hfault
  rcases storeVector_cases ra s with ⟨hal, h⟩ | ⟨hal, ha, h⟩ | ⟨hal, ha, hw, h⟩ | ⟨hal, ha, hw, h⟩ <;> rw [h]
  · rw [if_pos hal] at hfault
    exact .raised hr.1 hfault
  · rw [if_neg (not_not.2 hal), if_pos ha] at hfault
    exact .raised hr.1 hfault
  · rw [if_neg (not_not.2 hal), if_neg (not_lt.2 ha), if_pos ((admits_iff s _).1 hw)] at hfault
    exact .stored hr.1 hfault rfl (Memory.changedByStoreAt_storeLanes _ _ _ ha)
  · have hw' : ¬ ∀ k : LaneIx, s.writableAt (s.cmd.xs.toNat + 4 * k.val) = true := by simp [← admits_iff, hw]
    rw [if_neg (not_not.2 hal), if_neg (not_lt.2 ha), if_neg hw'] at hfault
    exact .unadmitted hr.1 hfault rfl (Memory.changedByStoreAt_storeLanes _ _ _ ha)

theorem Effect.outcome (he : Effect s i t) (hr : Ready s i.sources) : CommandOutcome s (.ok i) t := by
  cases he with
  | writes _ rd x hdest => exact .written hr.1 (instrFault_of_ready_of_dest _ hr hdest) rfl hdest
  | tests ra rb => exact .tested hr.1 (if_pos hr.2) rfl
  | stores ra => exact storeVector_outcome hr
  | invalid rd ra rb m => exact .raised hr.1 rfl

theorem exec_outcome (h : exec i s = .next t) : CommandOutcome s (.ok i) t := by
  rcases exec_cases h with ⟨hf, rfl⟩ | ⟨hf, hr, rfl⟩ | ⟨hr, he⟩
  · exact .refused hf
  · exact .raised hf (instrFault_of_uninit _ hr)
  · exact he.outcome hr

/-- Each command gets one response, which carries the flag as log 10 has it. -/
theorem CommandOutcome.answers (ho : CommandOutcome s d t) : ∃ r, Answers s t r ∧ CarriesFlag t r := by
  cases ho with
  | refused => exact ⟨_, ⟨rfl, rfl, rfl, rfl⟩, nofun, fun _ => rfl⟩
  | raised => exact ⟨_, ⟨rfl, rfl, rfl, rfl⟩, nofun, fun _ => rfl⟩
  | unadmitted => exact ⟨_, ⟨rfl, rfl, rfl, rfl⟩, nofun, fun _ => rfl⟩
  | written => exact ⟨_, ⟨rfl, rfl, rfl, rfl⟩, fun _ => rfl, fun h => absurd rfl h⟩
  | tested => exact ⟨_, ⟨rfl, rfl, rfl, rfl⟩, fun _ => rfl, fun h => absurd rfl h⟩
  | stored => exact ⟨_, ⟨rfl, rfl, rfl, rfl⟩, fun _ => rfl, fun h => absurd rfl h⟩

/-! ### The outcome of a step -/

theorem step_command_faulted (hi : s.inbox = .command c :: rest) (hf : s.faulted = true) :
    step s = .next { s with inbox := rest, cmd := c }.refuse := by
  rw [step_command hi, if_pos hf]
  rfl

theorem step_command_illegal {e : DecodeError} (hi : s.inbox = .command c :: rest) (hf : s.faulted = false)
    (hd : decode c.w = .error e) : step s = .next ({ s with inbox := rest, cmd := c }.raise .illegalCommand) := by
  rw [step_command hi, if_neg (by simp [hf]), hd]
  rfl

theorem step_command_decoded (hi : s.inbox = .command c :: rest) (hf : s.faulted = false) (hd : decode c.w = .ok i) :
    step s = exec i { s with inbox := rest, cmd := c } := by
  rw [step_command hi, if_neg (by simp [hf]), hd]
  rfl

theorem step_command_outcome (hi : s.inbox = .command c :: rest) :
    ∃ t, step s = .next t ∧ CommandOutcome { s with inbox := rest, cmd := c } (decode c.w) t := by
  rcases Bool.eq_false_or_eq_true s.faulted with hf | hf
  · exact ⟨_, step_command_faulted hi hf, .refused hf⟩
  · cases hd : decode c.w with
    | error e => exact ⟨_, step_command_illegal hi hf hd, .raised hf rfl⟩
    | ok i =>
      obtain ⟨t, ht⟩ := exec_next i { s with inbox := rest, cmd := c }
      exact ⟨t, (step_command_decoded hi hf hd).trans ht, exec_outcome ht⟩

theorem resetDuring_eq_resetEvent (c : Command) (s : State) :
    ∃ m, s.resetDuring c = { s with cmd := c, mem := m }.resetEvent ∧ (s.mem.wf → m.wf) := by
  rcases resetDuring_cases c s with h | ⟨ra, -, -, -, -, ha, h⟩
  · exact ⟨s.mem, h, id⟩
  · exact ⟨_, h, (Memory.changedByStoreAt_storeLanes _ _ _ ha).wf⟩

theorem exists_step_outcome (s : State) : ∃ t, step s = .next t ∧ StepOutcome s t := by
  match hi : s.inbox with
  | [] => exact ⟨_, step_idle hi, .idle hi⟩
  | .reset :: rest => exact ⟨_, step_reset hi, .reset hi⟩
  | .resetDuring c :: rest =>
    obtain ⟨m, h, hm⟩ := resetDuring_eq_resetEvent c { s with inbox := rest }
    exact ⟨_, (step_resetDuring hi).trans (congrArg _ h), .interrupted hi hm⟩
  | .memWrite a b :: rest => exact ⟨_, step_memWrite hi, .hostWrite hi⟩
  | .command c :: rest =>
    obtain ⟨t, ht, ho⟩ := step_command_outcome hi
    exact ⟨t, ht, .command hi ho⟩

theorem step_outcome (h : step s = .next t) : StepOutcome s t := by
  obtain ⟨t', ht, ho⟩ := exists_step_outcome s
  rw [h] at ht
  injection ht with ht
  exact ht ▸ ho

end Sys2Proof.Machine
end

section
/-! PROOFS. The invariant of the machine: it holds at reset and every step keeps it (R29, R30, R40). -/

namespace Sys2Proof.Machine

variable {s t : State}

theorem FaultCause.code_range (f : FaultCause) : 1 ≤ f.code.toNat ∧ f.code.toNat ≤ 5 := by
  cases f <;> decide

theorem raise_inv (f : FaultCause) (hm : s.mem.wf) : (s.raise f).Inv :=
  ⟨hm, nofun, fun _ => f.code_range⟩

theorem resetEvent_inv (hm : s.mem.wf) : s.resetEvent.Inv :=
  ⟨hm, fun _ => ⟨rfl, rfl, rfl⟩, nofun⟩

theorem CommandOutcome.inv {d : Except DecodeError Instr} (ho : CommandOutcome s d t) (h : s.Inv) : t.Inv := by
  obtain ⟨hmem, hclear, hcode⟩ := h
  cases ho with
  | refused => exact ⟨hmem, hclear, hcode⟩
  | raised => exact raise_inv _ hmem
  | unadmitted _ _ _ hm => exact raise_inv _ (hm.wf hmem)
  | written => exact ⟨hmem, hclear, hcode⟩
  | tested => exact ⟨hmem, hclear, hcode⟩
  | stored _ _ _ hm => exact ⟨hm.wf hmem, hclear, hcode⟩

/-- Settles O10, by cases on the outcome of the step: only fault entry and reset write the record, and memory changes
only inside the `2^64` bytes. -/
theorem everyStepKeepsTheInvariant : Obligations.EveryStepKeepsTheInvariant := by
  intro s t h hstep
  cases step_outcome hstep with
  | idle => exact h
  | reset => exact resetEvent_inv h.memory
  | interrupted _ hm => exact resetEvent_inv (hm h.memory)
  | hostWrite => exact ⟨Memory.wf_write _ h.memory (BitVec.isLt _), h.clear, h.code⟩
  | command _ ho => exact ho.inv ⟨h.memory, h.clear, h.code⟩

/-- Settles O11. -/
theorem invariantHoldsAtReset : Obligations.InvariantHoldsAtReset where
  memory := by decide
  clear _ := ⟨rfl, rfl, rfl⟩
  code := nofun

end Sys2Proof.Machine
end

section
/-! PROOFS. The statements about single steps: what each action of the host leads to and what it leaves unchanged
(10_state.md rules R26 to R37; R171 to R177; R190). -/

namespace Sys2Proof.Machine

variable {s t : State} {d : Except DecodeError Instr}

/-! ### Responses -/

/-- Settles O7, by cases on the outcome of the step. -/
theorem everyStepAnswersItsAction : Obligations.EveryStepAnswersItsAction := by
  refine ⟨fun s => ?_, fun i s t h => ?_⟩
  · obtain ⟨t, ht, ho⟩ := exists_step_outcome s
    refine ⟨t, ht, ?_⟩
    cases ho with
    | idle hi =>
      rw [hi]
      exact ⟨fun _ => rfl, nofun, nofun, nofun, nofun⟩
    | reset hi =>
      rw [hi]
      exact ⟨nofun, nofun, by rintro _ ⟨⟩; exact ⟨rfl, rfl⟩, nofun, nofun⟩
    | interrupted hi =>
      rw [hi]
      exact ⟨nofun, nofun, nofun, by rintro _ _ ⟨⟩; exact ⟨rfl, rfl⟩, nofun⟩
    | hostWrite hi =>
      rw [hi]
      exact ⟨nofun, nofun, nofun, nofun, by rintro _ _ _ ⟨⟩; exact ⟨rfl, rfl⟩⟩
    | command hi ho =>
      obtain ⟨r, ha, hz⟩ := ho.answers
      rw [hi]
      exact ⟨nofun, by rintro _ _ ⟨⟩; exact ⟨ha.inbox, r, ha.responses, hz⟩, nofun, nofun, nofun⟩
  · obtain ⟨r, ha, hz⟩ := (exec_outcome h).answers
    exact ⟨r, ha.responses, hz⟩

/-- Settles O6. -/
theorem stepRunsTheDecodedInstruction : Obligations.StepRunsTheDecodedInstruction :=
  fun _ _ _ _ hi hf hd => step_command_decoded hi hf hd

/-! ### Reset and host writes -/

/-- Settles O12. -/
theorem resetStateHoldsTheSpecifiedValues : Obligations.ResetStateHoldsTheSpecifiedValues :=
  ⟨rfl, by decide⟩

theorem CommandOutcome.faulted_of_faulted (ho : CommandOutcome s d t) (hf : s.faulted = true) : t.faulted = true := by
  cases ho with
  | refused => exact hf
  | raised => rfl
  | unadmitted => rfl
  | written hf' => exact nomatch hf.symm.trans hf'
  | tested hf' => exact nomatch hf.symm.trans hf'
  | stored hf' => exact nomatch hf.symm.trans hf'

/-- Settles O13: the reset event by its definition, and the way out of a fault by cases on the outcome of the step. -/
theorem resetEventClearsTheUnit : Obligations.ResetEventClearsTheUnit := by
  refine ⟨fun s rest hi => ?_, fun s t hf hstep hf' => ?_⟩
  · exact ⟨_, step_reset hi, rfl, valid_resetEvent _, fun _ => rfl, rfl, rfl, rfl⟩
  · cases step_outcome hstep with
    | idle => exact nomatch hf.symm.trans hf'
    | reset hi => exact ⟨_, _, hi, rfl⟩
    | interrupted hi => exact ⟨_, _, hi, rfl⟩
    | hostWrite => exact nomatch hf.symm.trans hf'
    | command _ ho => exact nomatch (ho.faulted_of_faulted hf).symm.trans hf'

/-- Settles O14. -/
theorem hostWriteChangesOneByte : Obligations.HostWriteChangesOneByte := by
  intro s a b rest hi
  have hread (x : Nat) : (s.mem.write a.toNat b).read x = if x = a.toNat then some b else s.mem.read x :=
    Memory.read_write ..
  exact ⟨_, step_memWrite hi, ⟨fun _ => rfl, rfl⟩, (hread _).trans (if_pos rfl),
    fun x hx => (hread x).trans (if_neg hx), rfl, rfl⟩

/-! ### Faults and refusals -/

/-- Settles O18. -/
theorem faultEntryWritesTheRecord : Obligations.FaultEntryWritesTheRecord :=
  ⟨fun s f => ⟨raise_entersFault s f, fun _ => rfl⟩, rfl, rfl, rfl, rfl, rfl⟩

/-- Settles O19: a refusal is one more response and nothing else. -/
theorem faultedUnitRefusesEveryCommand : Obligations.FaultedUnitRefusesEveryCommand := by
  refine ⟨fun s c rest hf hi => ?_, fun s i hf => ?_⟩
  · exact ⟨_, step_command_faulted hi hf, ⟨fun _ => rfl, rfl⟩, fun _ => rfl, rfl, ⟨rfl, rfl, rfl, rfl⟩⟩
  · exact ⟨_, exec_faulted i hf, ⟨fun _ => rfl, rfl⟩, fun _ => rfl, rfl, ⟨rfl, rfl, rfl, rfl⟩⟩

/-- Settles O23. -/
theorem neverWrittenSourceFaults : Obligations.NeverWrittenSourceFaults := by
  intro i s hf hr
  obtain ⟨f, he, -⟩ := exec_eq_commonStep i s
  exact ⟨_, he.trans (commonStep_uninit hf hr), raise_entersFault s .uninitRead, fun _ => rfl⟩

theorem commandFault_eq_decodedFault (s : State) (c : Command) (rest : List HostAction) :
    commandFault s c = decodedFault { s with inbox := rest, cmd := c } c.xs (decode c.w) := by
  unfold commandFault
  cases decode c.w <;> rfl

/-- Settles O21: each outcome of an unfaulted unit names the fault it reports. -/
theorem firstFaultInPriorityOrderIsReported : Obligations.FirstFaultInPriorityOrderIsReported := by
  intro s c rest hf hi
  obtain ⟨t, ht, ho⟩ := step_command_outcome hi
  refine ⟨t, ht, ?_⟩
  rw [commandFault_eq_decodedFault s c rest]
  cases ho with
  | refused hf' => exact nomatch hf.symm.trans hf'
  | raised _ h =>
    rw [h]
    exact raise_entersFault _ _
  | unadmitted _ h =>
    rw [h]
    exact ⟨fun _ => rfl, rfl, rfl, rfl, rfl, rfl⟩
  | written _ h =>
    rw [h]
    exact ⟨⟨_, rfl, rfl, rfl, rfl⟩, hf, rfl, rfl, rfl⟩
  | tested _ h =>
    rw [h]
    exact ⟨⟨_, rfl, rfl, rfl, rfl⟩, hf, rfl, rfl, rfl⟩
  | stored _ h =>
    rw [h]
    exact ⟨⟨_, rfl, rfl, rfl, rfl⟩, hf, rfl, rfl, rfl⟩

/-! ### What a command leaves unchanged -/

/-- Settles O15: of all outcomes of a step only reset and the all-zero test write `Z`. -/
theorem onlyVtestzWritesTheFlag : Obligations.OnlyVtestzWritesTheFlag := by
  refine ⟨fun s t hstep hz => ?_, fun s t c rest ra rb z hi _ hstep hresp => ?_, rfl⟩
  · cases step_outcome hstep with
    | idle => exact absurd rfl hz
    | reset hi => exact .inl ⟨⟨_, _, hi, rfl⟩, rfl⟩
    | interrupted hi => exact .inl ⟨⟨_, _, hi, rfl⟩, rfl⟩
    | hostWrite => exact absurd rfl hz
    | command hi ho =>
      cases ho with
      | tested _ _ hd => exact .inr ⟨_, _, _, _, hi, hd, rfl⟩
      | refused => exact absurd rfl hz
      | raised => exact absurd rfl hz
      | unadmitted => exact absurd rfl hz
      | written => exact absurd rfl hz
      | stored => exact absurd rfl hz
  · obtain ⟨t', ht', ho⟩ := step_command_outcome hi
    obtain rfl : t = t' := Host.Outcome.next.inj (hstep.symm.trans ht')
    obtain ⟨r, ha, hok, -⟩ := ho.answers
    obtain rfl : r = ⟨.ok, z⟩ := by simpa using ha.responses.symm.trans hresp
    exact (hok rfl).symm

/-- Settles O17: of all outcomes of a command only those of a store write memory. -/
theorem onlyVstWritesMemory : Obligations.OnlyVstWritesMemory := by
  intro s t c rest hi hne hstep
  obtain ⟨t', ht', ho⟩ := step_command_outcome hi
  obtain rfl : t = t' := Host.Outcome.next.inj (hstep.symm.trans ht')
  cases ho with
  | refused => exact fun _ => rfl
  | raised => exact fun _ => rfl
  | written => exact fun _ => rfl
  | tested => exact fun _ => rfl
  | unadmitted _ _ hd => exact absurd hd (hne _)
  | stored _ _ hd => exact absurd hd (hne _)

/-- Settles O22, outcome by outcome. -/
theorem whatSurvivesACommand : Obligations.WhatSurvivesACommand := by
  intro s c rest hi
  obtain ⟨t, ht, ho⟩ := step_command_outcome hi
  cases ho with
  | refused => exact ⟨_, _, ht, rfl, nofun, nofun, fun _ => ⟨⟨fun _ => rfl, rfl⟩, fun _ => rfl⟩⟩
  | raised =>
    exact ⟨_, _, ht, rfl, nofun,
      fun _ => ⟨fun _ => rfl, rfl, rfl, ⟨rfl, rfl, rfl⟩, fun _ _ => rfl, fun _ _ => rfl⟩, nofun⟩
  | unadmitted _ _ _ hm =>
    exact ⟨_, _, ht, rfl, nofun,
      fun _ => ⟨fun _ => rfl, rfl, rfl, ⟨rfl, rfl, rfl⟩, fun h => absurd rfl h, hm.outside⟩, nofun⟩
  | written _ _ hd hdest =>
    refine ⟨_, _, ht, rfl, fun _ => ⟨⟨rfl, rfl, rfl, rfl⟩, _, hd, .inl ⟨_, hdest, fun q hq => ?_, rfl, fun _ => rfl⟩⟩,
      nofun, nofun⟩
    exact ⟨readV_finishWrite_other _ _ hq, valid_finishWrite_other _ _ hq⟩
  | tested _ _ hd =>
    exact ⟨_, _, ht, rfl,
      fun _ => ⟨⟨rfl, rfl, rfl, rfl⟩, _, hd, .inr (.inl ⟨_, _, rfl, fun _ => rfl, rfl, fun _ => rfl⟩)⟩, nofun, nofun⟩
  | stored _ _ hd hm =>
    exact ⟨_, _, ht, rfl,
      fun _ => ⟨⟨rfl, rfl, rfl, rfl⟩, _, hd, .inr (.inr ⟨_, rfl, ⟨fun _ => rfl, rfl⟩, hm.outside⟩)⟩, nofun, nofun⟩

end Sys2Proof.Machine
end

section
/-! PROOFS. A lane of a result depends on the same lane of the sources alone (R24, R93). -/

namespace Sys2Proof.Machine

/-- Each lane of the value depends on the state through the same lane of the registers `rs` alone. -/
def LaneLocal (rs : List Reg) (x : State → VReg) : Prop :=
  ∀ (s1 s2 : State) (k : LaneIx), (∀ r ∈ rs, lane (s1.readV r) k = lane (s2.readV r) k) →
    lane (x s1) k = lane (x s2) k

theorem laneLocal_lanewise2 (f : Lane → Lane → Lane) (ra rb : Reg) :
    LaneLocal [ra, rb] fun s => lanewise2 f (s.readV ra) (s.readV rb) := by
  intro s1 s2 k h
  have ha := h ra (by simp)
  have hb := h rb (by simp)
  simp only [lane_lanewise2, ha, hb]

theorem laneLocal_lanewise3 (f : Lane → Lane → Lane → Lane) (ra rb rc : Reg) :
    LaneLocal [ra, rb, rc] fun s => lanewise3 f (s.readV ra) (s.readV rb) (s.readV rc) := by
  intro s1 s2 k h
  have ha := h ra (by simp)
  have hb := h rb (by simp)
  have hc := h rc (by simp)
  simp only [lane_lanewise3, ha, hb, hc]

theorem laneLocal_const (rs : List Reg) (x : VReg) : LaneLocal rs fun _ => x := fun _ _ _ _ => rfl

/-- A lane-preserving instruction is a common step that writes a lane-local value. -/
theorem exec_eq_commonStep_of_lanePreserving {i : Instr} {rd : Reg} (hi : i.lanePreserving = true)
    (hd : i.dest = some rd) :
    ∃ x, LaneLocal i.sources x ∧ ∀ s, exec i s = commonStep i.sources (fun s => s.finishWrite rd (x s)) s := by
  cases i
  case vtestz => cases hd
  case vst => cases hd
  case vcmpInvalidMode => cases hd
  case vbcast => cases hi
  case vins => cases hi
  all_goals obtain rfl := Option.some.inj hd
  case vfmadd | vfmsub => exact ⟨_, laneLocal_lanewise3 _ _ _ _, fun _ => rfl⟩
  case vcmpFalseOq | vcmpTrueUq | vcmpFalseOs | vcmpTrueUs => exact ⟨_, laneLocal_const _ _, fun _ => rfl⟩
  all_goals exact ⟨_, laneLocal_lanewise2 _ _ _, fun _ => rfl⟩

/-- Settles O24: both results are the value of one lane-local function of the sources. -/
theorem lanesDoNotInfluenceOneAnother : Obligations.LanesDoNotInfluenceOneAnother := by
  intro i rd k s1 s2 t1 t2 hlane hd hr1 hr2 hagree h1 h2
  obtain ⟨x, hx, hexec⟩ := exec_eq_commonStep_of_lanePreserving hlane hd
  rw [hexec, commonStep_ready hr1] at h1
  rw [hexec, commonStep_ready hr2] at h2
  injection h1 with h1
  injection h2 with h2
  rw [← h1, ← h2, readV_finishWrite_same, readV_finishWrite_same]
  exact hx s1 s2 k hagree

end Sys2Proof.Machine
end

section
/-! PROOFS. The store: its outcome for every address, the bytes it leaves, and stores to disjoint ranges (20_memory.md
rules R41 to R53; R120). -/

namespace Sys2Proof.Machine

variable {s : State} {ra : Reg}

/-! ### The outcome by the address -/

theorem exec_vst_of_ready (hr : Ready s [ra]) : exec (.vst ra) s = .next (storeVector ra s) :=
  commonStep_ready hr

theorem storeVector_of_misaligned (ra : Reg) (hal : s.cmd.xs.toNat % 4 ≠ 0) :
    storeVector ra s = s.raise .storeMisaligned :=
  if_pos fun h => hal ((lowBits_eq_zero_iff _).1 h)

theorem storeVector_of_aligned (ra : Reg) (hal : s.cmd.xs.toNat % 4 = 0) :
    storeVector ra s =
      if 2 ^ 64 - 32 < s.cmd.xs.toNat then s.raise .storeAccess
      else if s.admits s.cmd.xs.toNat then
        { s with mem := s.mem.storeLanes s.cmd.xs.toNat (s.readV ra) (fun _ => true) laneIxs }.finishOk
      else
        { s with
          mem := s.mem.storeLanes s.cmd.xs.toNat (s.readV ra) (partialSelection s s.cmd.xs.toNat) laneIxs
          draws := s.draws + 1 }.raise .storeAccess :=
  if_neg (not_not.2 ((lowBits_eq_zero_iff _).2 hal))

theorem storeVector_of_wrapping (ra : Reg) (hal : s.cmd.xs.toNat % 4 = 0) (ha : 2 ^ 64 - 32 < s.cmd.xs.toNat) :
    storeVector ra s = s.raise .storeAccess :=
  (storeVector_of_aligned ra hal).trans (if_pos ha)

theorem storeVector_mem_of_misaligned_or_wrapping (ra : Reg)
    (h : s.cmd.xs.toNat % 4 ≠ 0 ∨ 2 ^ 64 - 32 < s.cmd.xs.toNat) : (storeVector ra s).mem = s.mem := by
  by_cases hal : s.cmd.xs.toNat % 4 = 0
  · rw [storeVector_of_wrapping ra hal (h.resolve_left (not_not.2 hal)), raise_mem]
  · rw [storeVector_of_misaligned ra hal, raise_mem]

theorem storeVector_of_admitted (ra : Reg) (hal : s.cmd.xs.toNat % 4 = 0) (ha : s.cmd.xs.toNat ≤ 2 ^ 64 - 32)
    (hw : ∀ i : LaneIx, s.writableAt (s.cmd.xs.toNat + 4 * i.val) = true) :
    storeVector ra s =
      { s with mem := s.mem.storeLanes s.cmd.xs.toNat (s.readV ra) (fun _ => true) laneIxs }.finishOk := by
  rw [storeVector_of_aligned ra hal, if_neg (not_lt.2 ha), if_pos ((admits_iff s _).2 hw)]

theorem storeVector_of_unadmitted (ra : Reg) (hal : s.cmd.xs.toNat % 4 = 0) (ha : s.cmd.xs.toNat ≤ 2 ^ 64 - 32)
    (hw : ∃ i : LaneIx, s.writableAt (s.cmd.xs.toNat + 4 * i.val) = false) :
    storeVector ra s =
      { s with
        mem := s.mem.storeLanes s.cmd.xs.toNat (s.readV ra) (partialSelection s s.cmd.xs.toNat) laneIxs
        draws := s.draws + 1 }.raise .storeAccess := by
  have hw' : ¬ s.admits s.cmd.xs.toNat = true := by simpa [admits_iff] using hw
  rw [storeVector_of_aligned ra hal, if_neg (not_lt.2 ha), if_neg hw']

/-! ### What it leaves unchanged, whatever the memory `m` it leaves -/

theorem finishOk_withMem_frame (s : State) (m : Memory) :
    SameUnit s { s with mem := m }.finishOk ∧ (∃ z, Answers s { s with mem := m }.finishOk ⟨.ok, z⟩) ∧
      { s with mem := m }.finishOk.draws = s.draws :=
  ⟨⟨fun _ => rfl, rfl⟩, ⟨s.z, rfl, rfl, rfl, rfl⟩, rfl⟩

theorem raise_withMem_entersFault (s : State) (m : Memory) (n : Nat) (f : FaultCause) :
    EntersFault s ({ s with mem := m, draws := n }.raise f) f :=
  ⟨fun _ => rfl, rfl, rfl, rfl, rfl, rfl⟩

/-! ### The bytes it leaves -/

theorem Memory.read_storeLanes_byteAt (m : Memory) (a : Nat) (v : VReg) (sel : LaneIx → Bool) (i : LaneIx) (j : Fin 4) :
    (m.storeLanes a v sel laneIxs).read (byteAt a i j) =
      if sel i = true then some (storedByte v i j) else m.read (byteAt a i j) := by
  rw [Memory.read_storeLanes laneIxs m a (byteAt a i j) v sel i j rfl]
  simp only [mem_laneIxs, true_and, storedByte]

/-- The 32 bytes of a store are the bytes of its eight lane words (R42). -/
theorem exists_eq_byteAt {a x : Nat} (h1 : a ≤ x) (h2 : x < a + 32) : ∃ i j, x = byteAt a i j :=
  ⟨⟨(x - a) / 4, by omega⟩, ⟨(x - a) % 4, by omega⟩, by simp only [byteAt]; omega⟩

/-- A byte after the lane writes of a store depends on that byte before and on which lanes are written, not on their
order (R47). -/
theorem Memory.read_storeLanes_congr {m m' : Memory} {order order' : List LaneIx} {x : Nat} (a : Nat) (v : VReg)
    (sel : LaneIx → Bool) (hm : m.read x = m'.read x) (ho : ∀ i, i ∈ order ↔ i ∈ order') :
    (m.storeLanes a v sel order).read x = (m'.storeLanes a v sel order').read x := by
  by_cases hx : a ≤ x ∧ x < a + 32
  · obtain ⟨i, j, hij⟩ := exists_eq_byteAt hx.1 hx.2
    simp only [Memory.read_storeLanes _ _ a x v sel i j hij, hm, ho]
  · have hout : x < a ∨ a + 32 ≤ x := by omega
    rw [Memory.read_storeLanes_outside _ _ _ _ _ _ hout, Memory.read_storeLanes_outside _ _ _ _ _ _ hout, hm]

theorem writableAt_of_partialSelection {a : Nat} {i : LaneIx} (h : partialSelection s a i = true) :
    s.writableAt (a + 4 * i.val) = true :=
  (Bool.and_eq_true_iff.1 h).1

/-! ### The statements about one store -/

/-- Settles O42. -/
theorem admittedStoreWritesThirtyTwoBytes : Obligations.AdmittedStoreWritesThirtyTwoBytes := by
  intro ra s hr hal ha hw
  rw [exec_vst_of_ready hr, storeVector_of_admitted ra hal ha hw]
  refine ⟨_, rfl, fun i j => ?_, fun x hx => ?_, finishOk_withMem_frame s _⟩
  · rw [finishOk_mem, Memory.read_storeLanes_byteAt, if_pos rfl]
  · rw [finishOk_mem, Memory.read_storeLanes_outside _ _ _ _ _ _ hx]

/-- Settles O43. -/
theorem misalignedOrWrappingStoreWritesNothing : Obligations.MisalignedOrWrappingStoreWritesNothing := by
  intro ra s hr
  rw [exec_vst_of_ready hr]
  refine ⟨fun hal => ?_, fun hal ha => ?_⟩
  · rw [storeVector_of_misaligned ra hal]
    exact ⟨_, rfl, raise_entersFault s _, fun _ => rfl⟩
  · rw [storeVector_of_wrapping ra hal ha]
    exact ⟨_, rfl, raise_entersFault s _, fun _ => rfl⟩

/-- Settles O44: a lane word is written iff the free selection picks it, and it picks writable words alone. -/
theorem unadmittedStoreLeavesOldOrNewWords : Obligations.UnadmittedStoreLeavesOldOrNewWords := by
  refine ⟨fun ra s hr hal ha hw => ?_, fun ra s t hr hbad ht => ?_⟩
  · rw [exec_vst_of_ready hr, storeVector_of_unadmitted ra hal ha hw]
    refine ⟨_, rfl, raise_withMem_entersFault s _ _ _, fun i => ?_, fun x hx => ?_⟩
    · have hread (j : Fin 4) := Memory.read_storeLanes_byteAt s.mem s.cmd.xs.toNat (s.readV ra)
        (partialSelection s s.cmd.xs.toNat) i j
      by_cases hsel : partialSelection s s.cmd.xs.toNat i = true
      · exact .inr ⟨writableAt_of_partialSelection hsel, fun j => (hread j).trans (if_pos hsel)⟩
      · exact .inl fun j => (hread j).trans (if_neg hsel)
    · exact Memory.read_storeLanes_outside _ _ _ _ _ _ hx
  · obtain rfl : storeVector ra s = t := Host.Outcome.next.inj ((exec_vst_of_ready hr).symm.trans ht)
    intro x
    rw [storeVector_mem_of_misaligned_or_wrapping ra hbad]

/-- Settles O45. -/
theorem orderOfLaneWritesIsUnobservable : Obligations.OrderOfLaneWritesIsUnobservable :=
  fun _ _ a v sel ho _ => Memory.read_storeLanes_congr a v sel rfl fun _ => ho.mem_iff

/-! ### Memories in canonical form, and two stores -/

theorem Memory.mem_of_read {m : Memory} {a : Nat} {b : Byte} (h : m.read a = some b) : (a, b) ∈ m := by
  induction m with
  | nil => cases h
  | cons p m ih =>
    rw [Memory.read] at h
    split at h
    · next e =>
      cases h
      exact e ▸ List.mem_cons_self
    · exact List.mem_cons_of_mem _ (ih h)

/-- A memory in canonical form lists the bytes it reads. -/
theorem Memory.mem_iff_read {m : Memory} (hwf : m.wf) (a : Nat) (b : Byte) : (a, b) ∈ m ↔ m.read a = some b := by
  refine ⟨fun h => ?_, Memory.mem_of_read⟩
  obtain ⟨hs, -⟩ := hwf
  induction m with
  | nil => cases h
  | cons p m ih =>
    obtain ⟨hlt, hs⟩ := List.pairwise_cons.1 hs
    rw [Memory.read]
    rcases List.mem_cons.1 h with rfl | h
    · exact if_pos rfl
    · rw [if_neg (hlt _ h).ne]
      exact ih h hs

/-- Canonical memories that read the same are the same list. -/
theorem Memory.eq_of_read_eq {m m' : Memory} (h : m.wf) (h' : m'.wf) (hread : ∀ x, m.read x = m'.read x) : m = m' := by
  have : Std.Irrefl fun p q : Host.Cell => p.1 < q.1 := ⟨fun p => lt_irrefl p.1⟩
  have : Std.Antisymm fun p q : Host.Cell => p.1 < q.1 := ⟨fun p q hp hq => absurd hp hq.not_gt⟩
  exact h.1.eq_of_mem_iff h'.1 fun ⟨a, b⟩ => by rw [Memory.mem_iff_read h, Memory.mem_iff_read h', hread]

/-- Settles O46: both orders read the same at every byte, because one of the two stores does not reach it, and leave a
memory in canonical form. -/
theorem disjointStoresCommute : Obligations.DisjointStoresCommute := by
  intro m a b v w hm ha hb hdisj
  refine Memory.eq_of_read_eq (Memory.wf_storeLanes _ _ _ (Memory.wf_storeLanes _ _ _ hm ha) hb)
    (Memory.wf_storeLanes _ _ _ (Memory.wf_storeLanes _ _ _ hm hb) ha) fun x => ?_
  have hmiss : (x < a ∨ a + 32 ≤ x) ∨ (x < b ∨ b + 32 ≤ x) := by omega
  rcases hmiss with hx | hx
  · rw [Memory.read_storeLanes_outside laneIxs _ a x v _ hx]
    exact Memory.read_storeLanes_congr _ _ _ (Memory.read_storeLanes_outside _ _ _ _ _ _ hx) fun _ => Iff.rfl
  · rw [Memory.read_storeLanes_outside laneIxs _ b x w _ hx]
    exact Memory.read_storeLanes_congr _ _ _ (Memory.read_storeLanes_outside _ _ _ _ _ _ hx).symm fun _ => Iff.rfl

end Sys2Proof.Machine
end

section
/-! PROOFS. The decoder and the encoder are inverse to each other, and the legal words are the words of the rows of the
opcode table (30_encoding.md rules R61 to R70). -/

namespace Sys2Proof

variable {w : CmdWord} {row : TableRow}

/-! ### The fields of a word -/

@[simp] theorem regOf_ofFin (r : Reg) : regOf ⟨r⟩ = r := rfl

@[simp] theorem regOf_zero : regOf 0#4 = 0 := rfl

theorem packWord_fields (w : CmdWord) :
    packWord (opcodeField w) (regOf (rdField w)) (regOf (raField w)) (regOf (rbField w)) (regOf (rcField w))
      (imm8Field w) = w := by
  have hreg (b : BitVec 4) : BitVec.ofNat 4 (regOf b) = b := by simp [regOf]
  simp only [packWord, hreg, opcodeField, rdField, raField, rbField, rcField, imm8Field]
  iterate 5 rw [BitVec.extractLsb'_append_extractLsb'_eq_extractLsb' (by rfl)]
  exact BitVec.extractLsb'_eq_self

/-- A word is the packed word of what its fields hold. -/
theorem packWord_eq_of_fields {op : BitVec 8} {rd ra rb rc : Reg} {imm : BitVec 8} (hop : opcodeField w = op)
    (hrd : regOf (rdField w) = rd) (hra : regOf (raField w) = ra) (hrb : regOf (rbField w) = rb)
    (hrc : regOf (rcField w) = rc) (himm : imm8Field w = imm) : packWord op rd ra rb rc imm = w := by
  subst hop hrd hra hrb hrc himm
  exact packWord_fields w

/-- With its reserved bits zero, the `imm8` of `VINS` is the lane number it holds (R66). -/
theorem ofNat_laneBits :
    ∀ imm : BitVec 8, imm.extractLsb' 3 5 = 0#5 → BitVec.ofNat 8 (imm.extractLsb' 0 3).toNat = imm := by
  decide

theorem reservedBits_ofNat_lane : ∀ k : LaneIx, (BitVec.ofNat 8 k.val).extractLsb' 3 5 = 0#5 := by
  decide

/-! ### The modes of `VCMP` -/

theorem vcmpOfMode_of_le {imm : BitVec 8} (h : 32 ≤ imm.toNat) (rd ra rb : Reg) :
    vcmpOfMode imm rd ra rb = .vcmpInvalidMode rd ra rb imm := by
  unfold vcmpOfMode
  split
  case h_33 => rfl
  all_goals omega

theorem encode_vcmpOfMode (imm : BitVec 8) (rd ra rb : Reg) :
    encode (vcmpOfMode imm rd ra rb) = packWord 0x20 rd ra rb 0 imm := by
  unfold vcmpOfMode
  split
  case h_33 => rfl
  all_goals
    next h =>
    refine congrArg (packWord 0x20 rd ra rb 0) (BitVec.eq_of_toNat_eq ?_)
    exact h.symm

theorem wellFormed_vcmpOfMode (imm : BitVec 8) (rd ra rb : Reg) : (vcmpOfMode imm rd ra rb).wellFormed = true := by
  unfold vcmpOfMode
  split
  case h_33 =>
    -- `omega` reads the 32 excluded values only as negations
    simp only [imp_false] at *
    exact decide_eq_true (by omega)
  all_goals rfl

/-- Opcode `0x20` with `rc = 0` is legal whatever `imm8` is (R65). -/
theorem decode_of_vcmp_fields (hop : opcodeField w = 0x20#8) (hrc : regOf (rcField w) = 0) :
    decode w = .ok (vcmpOfMode (imm8Field w) (regOf (rdField w)) (regOf (raField w)) (regOf (rbField w))) := by
  simp [decode, ifReservedZero, hop, hrc]

theorem decode_packWord_vcmp (rd ra rb : Reg) (imm : BitVec 8) :
    decode (packWord 0x20 rd ra rb 0 imm) = .ok (vcmpOfMode imm rd ra rb) := by
  simpa using decode_of_vcmp_fields (w := packWord 0x20 rd ra rb 0 imm) (by simp) (by simp)

/-! ### Decode and encode -/

theorem ifReservedZero_eq_ok_iff {z : Bool} {i j : Instr} : ifReservedZero z i = .ok j ↔ z = true ∧ i = j := by
  cases z <;> simp [ifReservedZero]

theorem decode_encode {i : Instr} (h : i.wellFormed = true) : decode (encode i) = .ok i := by
  cases i
  case vins rd k =>
    simp [encode, decode, ifReservedZero_eq_ok_iff, reservedBits_ofNat_lane, Nat.mod_eq_of_lt k.isLt]
  case vcmpInvalidMode rd ra rb mode =>
    have hm : 32 ≤ mode.toNat := of_decide_eq_true h
    exact (decode_packWord_vcmp rd ra rb mode).trans (congrArg _ (vcmpOfMode_of_le hm rd ra rb))
  case vfadd | vfmul | vfmadd | vfmsub | vuadd | vuacc | vor | vandn | vand | vtestz | vst | vbcast =>
    simp [encode, decode, ifReservedZero_eq_ok_iff]
  all_goals exact decode_packWord_vcmp _ _ _ _

/-- By the arms of `decode` in their order: with the opcode and the reserved fields of its format known, the fields
of `w` are those that `encode` packs. -/
theorem encode_of_decode {i : Instr} (h : decode w = .ok i) : i.wellFormed = true ∧ encode i = w := by
  unfold decode at h
  dsimp only at h
  split at h
  case h_15 => cases h
  all_goals
    rename_i hop
    obtain ⟨hz, rfl⟩ := ifReservedZero_eq_ok_iff.1 h
    simp only [Bool.and_eq_true, beq_iff_eq] at hz
  -- `VFMADD` and `VFMSUB`: `rc` is an operand
  case h_3 | h_4 => exact ⟨rfl, packWord_eq_of_fields (BitVec.eq_of_toNat_eq hop) rfl rfl rfl rfl hz⟩
  -- `VTESTZ`, `VST` and `VBCAST`: a register field is reserved
  case h_10 =>
    obtain ⟨⟨hrd, hrc⟩, himm⟩ := hz
    exact ⟨rfl, packWord_eq_of_fields (BitVec.eq_of_toNat_eq hop) hrd rfl rfl hrc himm⟩
  case h_11 =>
    obtain ⟨⟨⟨hrd, hrb⟩, hrc⟩, himm⟩ := hz
    exact ⟨rfl, packWord_eq_of_fields (BitVec.eq_of_toNat_eq hop) hrd rfl hrb hrc himm⟩
  case h_12 =>
    obtain ⟨⟨⟨hra, hrb⟩, hrc⟩, himm⟩ := hz
    exact ⟨rfl, packWord_eq_of_fields (BitVec.eq_of_toNat_eq hop) rfl hra hrb hrc himm⟩
  -- `VINS`: `imm8` holds the lane number
  case h_13 =>
    obtain ⟨⟨⟨hra, hrb⟩, hrc⟩, hzero⟩ := hz
    exact ⟨rfl, packWord_eq_of_fields (BitVec.eq_of_toNat_eq hop) rfl hra hrb hrc (ofNat_laneBits _ hzero).symm⟩
  -- `VCMP`: `imm8` is the mode value
  case h_14 =>
    rw [encode_vcmpOfMode]
    exact ⟨wellFormed_vcmpOfMode _ _ _ _, packWord_eq_of_fields (BitVec.eq_of_toNat_eq hop) rfl rfl rfl hz rfl⟩
  -- the commands with three registers
  all_goals
    obtain ⟨hrc, himm⟩ := hz
    exact ⟨rfl, packWord_eq_of_fields (BitVec.eq_of_toNat_eq hop) rfl rfl rfl hrc himm⟩

theorem decode_eq_ok_iff {i : Instr} : decode w = .ok i ↔ i.wellFormed = true ∧ encode i = w :=
  ⟨encode_of_decode, fun ⟨hwf, hw⟩ => hw ▸ decode_encode hwf⟩

/-- Settles O1, by the constructors: the fields of the packed word are those `encode` put there. -/
theorem decodeOfEncodeIsTheInstruction : Obligations.DecodeOfEncodeIsTheInstruction := fun _ => decode_encode

/-- Settles O2, by the arms of `decode`. -/
theorem encodeOfDecodeIsTheWord : Obligations.EncodeOfDecodeIsTheWord := fun _ _ => encode_of_decode

/-! ### The rows of the opcode table -/

/-- A field over which the mask of the row is all ones holds what the row's pattern holds there. -/
theorem extract_eq_of_selects (h : row.selects w = true) {k n : Nat}
    (hm : row.mask.extractLsb' k n = BitVec.allOnes n) : w.extractLsb' k n = row.pattern.extractLsb' k n := by
  rw [← beq_iff_eq.1 h, BitVec.extractLsb'_and, hm, BitVec.and_allOnes]

/-- Two rows whose patterns differ on a bit that both masks fix select no common word. -/
theorem not_selects_both {p q : TableRow} (h : p.pattern &&& q.mask ≠ q.pattern &&& p.mask) :
    ¬ (p.selects w = true ∧ q.selects w = true) := fun ⟨hp, hq⟩ =>
  h (by rw [← beq_iff_eq.1 hp, ← beq_iff_eq.1 hq, BitVec.and_assoc, BitVec.and_assoc, BitVec.and_comm p.mask])

theorem tableRows_pairwise_disjoint :
    tableRows.Pairwise fun p q => ∀ w, ¬ (p.selects w = true ∧ q.selects w = true) := by
  have hrows : tableRows.Pairwise fun p q => p.pattern &&& q.mask ≠ q.pattern &&& p.mask := by decide +kernel
  exact hrows.imp fun h w => not_selects_both h

open Laws.RowOfEncoding in
theorem exists_row_selects_encode :
    ∀ {i : Instr}, i.wellFormed = true → ∃ row ∈ tableRows, row.selects (encode i) = true
  | .vfadd .., h => vfadd _ _ _ h
  | .vfmul .., h => vfmul _ _ _ h
  | .vfmadd .., h => vfmadd _ _ _ _ h
  | .vfmsub .., h => vfmsub _ _ _ _ h
  | .vuadd .., h => vuadd _ _ _ h
  | .vuacc .., h => vuacc _ _ _ h
  | .vor .., h => vor _ _ _ h
  | .vandn .., h => vandn _ _ _ h
  | .vand .., h => vand _ _ _ h
  | .vtestz .., h => vtestz _ _ h
  | .vst .., h => vst _ h
  | .vbcast .., h => vbcast _ h
  | .vins .., h => vins _ _ h
  | .vcmpEqOq .., h => vcmpEqOq _ _ _ h
  | .vcmpLtOs .., h => vcmpLtOs _ _ _ h
  | .vcmpLeOs .., h => vcmpLeOs _ _ _ h
  | .vcmpUnordQ .., h => vcmpUnordQ _ _ _ h
  | .vcmpNeqUq .., h => vcmpNeqUq _ _ _ h
  | .vcmpNltUs .., h => vcmpNltUs _ _ _ h
  | .vcmpNleUs .., h => vcmpNleUs _ _ _ h
  | .vcmpOrdQ .., h => vcmpOrdQ _ _ _ h
  | .vcmpEqUq .., h => vcmpEqUq _ _ _ h
  | .vcmpNgeUs .., h => vcmpNgeUs _ _ _ h
  | .vcmpNgtUs .., h => vcmpNgtUs _ _ _ h
  | .vcmpFalseOq .., h => vcmpFalseOq _ _ _ h
  | .vcmpNeqOq .., h => vcmpNeqOq _ _ _ h
  | .vcmpGeOs .., h => vcmpGeOs _ _ _ h
  | .vcmpGtOs .., h => vcmpGtOs _ _ _ h
  | .vcmpTrueUq .., h => vcmpTrueUq _ _ _ h
  | .vcmpEqOs .., h => vcmpEqOs _ _ _ h
  | .vcmpLtOq .., h => vcmpLtOq _ _ _ h
  | .vcmpLeOq .., h => vcmpLeOq _ _ _ h
  | .vcmpUnordS .., h => vcmpUnordS _ _ _ h
  | .vcmpNeqUs .., h => vcmpNeqUs _ _ _ h
  | .vcmpNltUq .., h => vcmpNltUq _ _ _ h
  | .vcmpNleUq .., h => vcmpNleUq _ _ _ h
  | .vcmpOrdS .., h => vcmpOrdS _ _ _ h
  | .vcmpEqUs .., h => vcmpEqUs _ _ _ h
  | .vcmpNgeUq .., h => vcmpNgeUq _ _ _ h
  | .vcmpNgtUq .., h => vcmpNgtUq _ _ _ h
  | .vcmpFalseOs .., h => vcmpFalseOs _ _ _ h
  | .vcmpNeqOs .., h => vcmpNeqOs _ _ _ h
  | .vcmpGeOq .., h => vcmpGeOq _ _ _ h
  | .vcmpGtOq .., h => vcmpGtOq _ _ _ h
  | .vcmpTrueUs .., h => vcmpTrueUs _ _ _ h
  | .vcmpInvalidMode .., h => vcmpInvalidMode _ _ _ _ h

section
variable (h : row.selects w = true)
include h

theorem opcodeField_of_selects (hm : opcodeField row.mask = 0xFF#8) : opcodeField w = opcodeField row.pattern :=
  extract_eq_of_selects h hm

theorem regOf_rdField_of_selects (hm : rdField row.mask = 0xF#4) : regOf (rdField w) = regOf (rdField row.pattern) :=
  congrArg regOf (extract_eq_of_selects h hm)

theorem regOf_raField_of_selects (hm : raField row.mask = 0xF#4) : regOf (raField w) = regOf (raField row.pattern) :=
  congrArg regOf (extract_eq_of_selects h hm)

theorem regOf_rbField_of_selects (hm : rbField row.mask = 0xF#4) : regOf (rbField w) = regOf (rbField row.pattern) :=
  congrArg regOf (extract_eq_of_selects h hm)

theorem regOf_rcField_of_selects (hm : rcField row.mask = 0xF#4) : regOf (rcField w) = regOf (rcField row.pattern) :=
  congrArg regOf (extract_eq_of_selects h hm)

theorem imm8Field_and_of_selects : imm8Field w &&& imm8Field row.mask = imm8Field row.pattern := by
  rw [← beq_iff_eq.1 h, imm8Field, imm8Field, imm8Field, BitVec.extractLsb'_and]

theorem imm8Field_of_selects (hm : imm8Field row.mask = 0xFF#8) : imm8Field w = imm8Field row.pattern :=
  extract_eq_of_selects h hm

end

/-- The masked bits of `imm8` in the row of `VINS` are the reserved ones (R66). -/
theorem reservedBits_eq_zero_of_and : ∀ imm : BitVec 8, imm &&& 0xF8#8 = 0#8 → imm.extractLsb' 3 5 = 0#5 := by
  decide

theorem exists_encode_eq_of_plainRow (hrow : row ∈ plainRows) (h : row.selects w = true) :
    ∃ i : Instr, i.wellFormed = true ∧ encode i = w := by
  have hop := opcodeField_of_selects h
  have hrd := regOf_rdField_of_selects h
  have hra := regOf_raField_of_selects h
  have hrb := regOf_rbField_of_selects h
  have hrc := regOf_rcField_of_selects h
  have himm := imm8Field_of_selects h
  simp only [plainRows, List.mem_cons, List.not_mem_nil, or_false] at hrow
  rcases hrow with rfl | rfl | rfl | rfl | rfl | rfl | rfl | rfl | rfl | rfl | rfl | rfl | rfl
  · exact ⟨.vfadd .., rfl, packWord_eq_of_fields (hop rfl) rfl rfl rfl (hrc rfl) (himm rfl)⟩
  · exact ⟨.vfmul .., rfl, packWord_eq_of_fields (hop rfl) rfl rfl rfl (hrc rfl) (himm rfl)⟩
  · exact ⟨.vfmadd .., rfl, packWord_eq_of_fields (hop rfl) rfl rfl rfl rfl (himm rfl)⟩
  · exact ⟨.vfmsub .., rfl, packWord_eq_of_fields (hop rfl) rfl rfl rfl rfl (himm rfl)⟩
  · exact ⟨.vuadd .., rfl, packWord_eq_of_fields (hop rfl) rfl rfl rfl (hrc rfl) (himm rfl)⟩
  · exact ⟨.vuacc .., rfl, packWord_eq_of_fields (hop rfl) rfl rfl rfl (hrc rfl) (himm rfl)⟩
  · exact ⟨.vor .., rfl, packWord_eq_of_fields (hop rfl) rfl rfl rfl (hrc rfl) (himm rfl)⟩
  · exact ⟨.vandn .., rfl, packWord_eq_of_fields (hop rfl) rfl rfl rfl (hrc rfl) (himm rfl)⟩
  · exact ⟨.vand .., rfl, packWord_eq_of_fields (hop rfl) rfl rfl rfl (hrc rfl) (himm rfl)⟩
  · exact ⟨.vtestz .., rfl, packWord_eq_of_fields (hop rfl) (hrd rfl) rfl rfl (hrc rfl) (himm rfl)⟩
  · exact ⟨.vst .., rfl, packWord_eq_of_fields (hop rfl) (hrd rfl) rfl (hrb rfl) (hrc rfl) (himm rfl)⟩
  · exact ⟨.vbcast .., rfl, packWord_eq_of_fields (hop rfl) rfl (hra rfl) (hrb rfl) (hrc rfl) (himm rfl)⟩
  · have hlane := ofNat_laneBits _ (reservedBits_eq_zero_of_and _ (imm8Field_and_of_selects h))
    exact ⟨.vins _ ⟨_, ((imm8Field w).extractLsb' 0 3).isLt⟩, rfl,
      packWord_eq_of_fields (hop rfl) rfl (hra rfl) (hrb rfl) (hrc rfl) hlane.symm⟩

/-- The rows of `VCMP`, the three of the invalid modes among them, fix the opcode `0x20` and `rc = 0`. -/
theorem vcmp_fields_of_row (hrow : row ∈ (List.range 32).map modeRow ++ invalidModeRows) (h : row.selects w = true) :
    opcodeField w = 0x20#8 ∧ regOf (rcField w) = 0 := by
  have hfix : ∀ row ∈ (List.range 32).map modeRow ++ invalidModeRows,
      (opcodeField row.mask = 0xFF#8 ∧ opcodeField row.pattern = 0x20#8) ∧
        rcField row.mask = 0xF#4 ∧ regOf (rcField row.pattern) = 0 := by decide +kernel
  obtain ⟨⟨hopm, hopp⟩, hrcm, hrcp⟩ := hfix row hrow
  exact ⟨(opcodeField_of_selects h hopm).trans hopp, (regOf_rcField_of_selects h hrcm).trans hrcp⟩

theorem exists_decode_iff_exists_row : (∃ i, decode w = .ok i) ↔ ∃ row ∈ tableRows, row.selects w = true := by
  constructor
  · rintro ⟨i, hi⟩
    obtain ⟨hwf, rfl⟩ := encode_of_decode hi
    exact exists_row_selects_encode hwf
  · rintro ⟨row, hrow, h⟩
    rw [tableRows, List.append_assoc, List.mem_append] at hrow
    rcases hrow with hplain | hvcmp
    · obtain ⟨i, hi⟩ := exists_encode_eq_of_plainRow hplain h
      exact ⟨i, decode_eq_ok_iff.2 hi⟩
    · obtain ⟨hop, hrc⟩ := vcmp_fields_of_row hvcmp h
      exact ⟨_, decode_of_vcmp_fields hop hrc⟩

/-- A word is illegal iff no row selects it (R68). -/
theorem exists_decode_error_iff : (∃ e, decode w = .error e) ↔ ∀ row ∈ tableRows, row.selects w = false := by
  have hnot : (∃ e, decode w = .error e) ↔ ¬ ∃ i, decode w = .ok i := by cases decode w <;> simp
  rw [hnot, exists_decode_iff_exists_row]
  simp

/-! ### The rows of the invalid modes -/

theorem not_vcmp_of_plainRow (hrow : row ∈ plainRows) (h : row.selects w = true) : opcodeField w ≠ 0x20#8 := by
  have hfix : ∀ row ∈ plainRows, opcodeField row.mask = 0xFF#8 ∧ opcodeField row.pattern ≠ 0x20#8 := by decide
  obtain ⟨hm, hp⟩ := hfix row hrow
  exact opcodeField_of_selects h hm ▸ hp

theorem imm8Field_lt_of_modeRow (hrow : row ∈ (List.range 32).map modeRow) (h : row.selects w = true) :
    (imm8Field w).toNat < 32 := by
  have hfix : ∀ row ∈ (List.range 32).map modeRow,
      imm8Field row.mask = 0xFF#8 ∧ (imm8Field row.pattern).toNat < 32 := by decide +kernel
  obtain ⟨hm, hp⟩ := hfix row hrow
  exact imm8Field_of_selects h hm ▸ hp

theorem le_imm8Field_of_invalidModeRow (hrow : row ∈ invalidModeRows) (h : row.selects w = true) :
    32 ≤ (imm8Field w).toNat := by
  have hfix : ∀ row ∈ invalidModeRows, ∀ imm : BitVec 8,
      imm &&& imm8Field row.mask = imm8Field row.pattern → 32 ≤ imm.toNat := by decide +kernel
  exact hfix row hrow _ (imm8Field_and_of_selects h)

/-- A word is a `VCMP` with an invalid mode iff one of the three rows selects it (R68). -/
theorem exists_decode_invalidMode_iff :
    (∃ rd ra rb m, decode w = .ok (.vcmpInvalidMode rd ra rb m)) ↔ ∃ row ∈ invalidModeRows, row.selects w = true := by
  constructor
  · rintro ⟨rd, ra, rb, m, hd⟩
    obtain ⟨hwf, rfl⟩ := encode_of_decode hd
    have hm : 32 ≤ m.toNat := of_decide_eq_true hwf
    obtain ⟨row, hrow, h⟩ := exists_row_selects_encode hwf
    rw [tableRows, List.mem_append, List.mem_append] at hrow
    rcases hrow with (hplain | hmode) | hinvalid
    · exact absurd (opcodeField_packWord ..) (not_vcmp_of_plainRow hplain h)
    · have hlt := imm8Field_lt_of_modeRow hmode h
      rw [encode, imm8Field_packWord] at hlt
      exact absurd hm (not_le.2 hlt)
    · exact ⟨row, hinvalid, h⟩
  · rintro ⟨row, hrow, h⟩
    obtain ⟨hop, hrc⟩ := vcmp_fields_of_row (List.mem_append_right _ hrow) h
    have hm := le_imm8Field_of_invalidModeRow hrow h
    exact ⟨_, _, _, _, (decode_of_vcmp_fields hop hrc).trans (congrArg _ (vcmpOfMode_of_le hm _ _ _))⟩

theorem decode_of_vcmp_rc_ne_zero (hop : opcodeField w = 0x20#8) (hrc : rcField w ≠ 0#4) :
    decode w = .error .reservedFieldNonzero := by
  have hreg : regOf (rcField w) ≠ 0 := fun h => hrc (BitVec.eq_of_toNat_eq (congrArg Fin.val h))
  simp [decode, ifReservedZero, hop, hreg]

/-- Settles O3: a word decodes iff a row selects it, and the masks tell the rows apart. -/
theorem illegalWordsMatchNoRow : Obligations.IllegalWordsMatchNoRow := by
  refine ⟨by decide, tableRows_pairwise_disjoint, fun _ => exists_decode_error_iff,
    fun _ => exists_decode_invalidMode_iff, fun _ _ _ hi hf hrows => ?_, ⟨_, rfl⟩, ⟨_, rfl⟩,
    fun _ hop hrc => ⟨_, decode_of_vcmp_rc_ne_zero hop hrc⟩⟩
  obtain ⟨e, he⟩ := exists_decode_error_iff.2 hrows
  exact ⟨_, Machine.step_command_illegal hi hf he, Machine.raise_entersFault _ _, fun _ => rfl⟩

/-- Settles O5. -/
theorem modeNumbersOfVcmp : Obligations.ModeNumbersOfVcmp := by
  intro rd ra rb
  have hdecode := decode_packWord_vcmp rd ra rb
  exact ⟨hdecode 0, hdecode 1, hdecode 2, hdecode 3, hdecode 4, hdecode 5, hdecode 6, hdecode 7, hdecode 8, hdecode 9,
    hdecode 10, hdecode 11, hdecode 12, hdecode 13, hdecode 14, hdecode 15, hdecode 16, hdecode 17, hdecode 18,
    hdecode 19, hdecode 20, hdecode 21, hdecode 22, hdecode 23, hdecode 24, hdecode 25, hdecode 26, hdecode 27,
    hdecode 28, hdecode 29, hdecode 30, hdecode 31⟩

end Sys2Proof
end

section
/-! PROOFS. The commands that write one register and nothing else: data movement and the pseudo-commands (30_encoding.md
rule R72; 43_store_move.md rules R121, R122). -/

namespace Sys2Proof.Machine

variable {s : State} {i : Instr} {rd : Reg} {rs : List Reg} {x : State → VReg} {val : LaneIx → Lane}

/-- An instruction that is a common step writing `x` completes where its sources are valid, with the lanes of `x`. -/
theorem completesWriting_of_exec_eq (hexec : exec i s = commonStep rs (fun s => s.finishWrite rd (x s)) s)
    (hr : Ready s rs) (hval : ∀ k, lane (x s) k = val k) : CompletesWriting i s rd val :=
  ⟨_, hexec.trans (commonStep_ready hr), funext hval ▸ finishWrite_writesRegister s rd (x s)⟩

theorem ready_nil (hf : s.faulted = false) : Ready s [] := ⟨hf, nofun⟩

/-! ### Data movement (R121, R122) -/

theorem exec_vbcast (rd : Reg) (s : State) :
    exec (.vbcast rd) s = commonStep [] (fun s => s.finishWrite rd (broadcast (laneData s))) s := rfl

theorem exec_vins (rd : Reg) (k : LaneIx) (s : State) :
    exec (.vins rd k) s = commonStep [rd] (fun s => s.finishWrite rd (insertLane (s.readV rd) k (laneData s))) s := rfl

/-- Settles O47. -/
theorem vbcastCompletes : Obligations.VbcastCompletes := fun rd s hf =>
  completesWriting_of_exec_eq (exec_vbcast rd s) (ready_nil hf) (lane_broadcast _)

/-- Settles O48. -/
theorem vinsCompletes : Obligations.VinsCompletes := fun rd k s hr =>
  completesWriting_of_exec_eq (exec_vins rd k s) hr (lane_insertLane _ k _)

/-! ### The pseudo-commands (R72) -/

theorem exec_vor (rd ra rb : Reg) (s : State) :
    exec (.vor rd ra rb) s =
      commonStep [ra, rb] (fun s => s.finishWrite rd (lanewise2 orLane (s.readV ra) (s.readV rb))) s := rfl

theorem exec_vandn (rd ra rb : Reg) (s : State) :
    exec (.vandn rd ra rb) s =
      commonStep [ra, rb] (fun s => s.finishWrite rd (lanewise2 andnLane (s.readV ra) (s.readV rb))) s := rfl

theorem exec_vzero (d : Reg) (s : State) :
    exec (.vzero d) s = commonStep [] (fun s => s.finishWrite d (broadcast zero32)) s := rfl

theorem exec_vones (d : Reg) (s : State) :
    exec (.vones d) s = commonStep [] (fun s => s.finishWrite d (broadcast ones32)) s := rfl

theorem vmov_completes {d a : Reg} (hr : Ready s [a]) : CompletesWriting (.vmov d a) s d (lane (s.readV a)) := by
  have hr2 : Ready s [a, a] := ⟨hr.1, by simpa using hr.2⟩
  refine completesWriting_of_exec_eq (exec_vor d a a s) hr2 fun k => ?_
  rw [lane_lanewise2, orLane, BitVec.or_self]

theorem vzero_completes (d : Reg) (hf : s.faulted = false) : CompletesWriting (.vzero d) s d fun _ => zero32 :=
  completesWriting_of_exec_eq (exec_vzero d s) (ready_nil hf) (lane_broadcast zero32)

theorem vones_completes (d : Reg) (hf : s.faulted = false) : CompletesWriting (.vones d) s d fun _ => ones32 :=
  completesWriting_of_exec_eq (exec_vones d s) (ready_nil hf) (lane_broadcast ones32)

theorem vandn_completes {d a b : Reg} (hr : Ready s [a, b]) :
    CompletesWriting (.vandn d a b) s d fun k => andnLane (lane (s.readV a) k) (lane (s.readV b) k) :=
  completesWriting_of_exec_eq (exec_vandn d a b s) hr (lane_lanewise2 andnLane _ _)

theorem andnLane_ones32 (x : Lane) : andnLane ones32 x = ~~~x := BitVec.allOnes_and

/-- Settles O25. -/
theorem pseudoCommandsDoWhatTheyName : Obligations.PseudoCommandsDoWhatTheyName := by
  refine ⟨fun d a s => ⟨rfl, vmov_completes⟩, fun d s => ⟨decode_packWord_vcmp d 0 0 11, vzero_completes d⟩,
    fun d s => ⟨decode_packWord_vcmp d 0 0 15, vones_completes d⟩,
    fun s => ⟨decode_packWord_vcmp 15 0 0 11, vzero_completes 15⟩, fun d ones a s hr hones => ?_⟩
  simpa only [hones, andnLane_ones32] using vandn_completes (d := d) hr

end Sys2Proof.Machine
end

section
/-! PROOFS. The scalar add, multiply and fused multiply-add are the rules R85 to R87 on exact rationals: sums and
products of integer units are the rationals over `2^149` or `2^298`, and rounding is the same on both sides. -/

namespace Sys2Proof.Machine

/-! ### Exact sums and products -/

theorem valQ_eq_valUnits_div (x : Lane) : valQ x = (valUnits x : ℚ) / 2 ^ 149 := by
  rw [valQ_eq_valUnits, div_eq_mul_inv, zpow_neg]
  rfl

theorem valQ_add (a b : Lane) : valQ a + valQ b = ((valUnits a + valUnits b : Int) : ℚ) / 2 ^ 149 := by
  rw [valQ_eq_valUnits_div, valQ_eq_valUnits_div, ← add_div, Int.cast_add]

theorem valQ_mul (a b : Lane) : valQ a * valQ b = ((valUnits a * valUnits b : Int) : ℚ) / 2 ^ 298 := by
  rw [valQ_eq_valUnits_div, valQ_eq_valUnits_div, div_mul_div_comm, ← pow_add, Int.cast_mul]

/-- A lane added to an exact product: its units are brought to those of the product. -/
theorem div_two_pow_add_valQ (p : Int) (c : Lane) :
    (p : ℚ) / 2 ^ 298 + valQ c = ((p + valUnits c * 2 ^ 149 : Int) : ℚ) / 2 ^ 298 := by
  have hunits : (2 : ℚ) ^ 298 = 2 ^ 149 * 2 ^ 149 := pow_add 2 149 149
  rw [valQ_eq_valUnits_div, Int.cast_add, add_div, Int.cast_mul, Int.cast_pow, Int.cast_ofNat, hunits,
    mul_div_mul_right _ _ (by positivity)]

/-! ### The decisions on them, and the rounding -/

theorem intCast_div_two_pow_eq_zero_iff (q : Int) (k : Nat) : (q : ℚ) / 2 ^ k = 0 ↔ q = 0 := by
  simp

theorem intCast_div_two_pow_neg_iff (q : Int) (k : Nat) : (q : ℚ) / 2 ^ k < 0 ↔ q < 0 := by
  rw [div_lt_iff₀ (by positivity), zero_mul, Int.cast_lt_zero]

theorem round32Q_abs_div_two_pow (s : Bool) (q : Int) (k : Nat) :
    round32Q s |(q : ℚ) / 2 ^ k| = round32 s q.natAbs k := by
  rw [round32_eq_round32Q, Nat.cast_natAbs, Int.cast_abs, abs_div, abs_of_pos (show (0 : ℚ) < 2 ^ k by positivity)]

theorem fadd32_eq_fadd32Q (a b : Lane) : fadd32 a b = fadd32Q a b := by
  simp only [fadd32, fadd32Q, valQ_add, intCast_div_two_pow_eq_zero_iff, intCast_div_two_pow_neg_iff,
    round32Q_abs_div_two_pow]

theorem fmul32_eq_fmul32Q (a b : Lane) : fmul32 a b = fmul32Q a b := by
  simp only [fmul32, fmul32Q, valQ_mul, round32Q_abs_div_two_pow]

theorem fma32_eq_fma32Q (a b c : Lane) : fma32 a b c = fma32Q a b c := by
  simp only [fma32, fma32Q, valQ_mul, div_two_pow_add_valQ, intCast_div_two_pow_eq_zero_iff,
    intCast_div_two_pow_neg_iff, round32Q_abs_div_two_pow]

/-- Settles O30: the exact product is its units over `2^298`, and both sides round it alike. -/
theorem multiplicationFollowsTheRationalRule : Obligations.MultiplicationFollowsTheRationalRule := fmul32_eq_fmul32Q

/-- Settles O31: product and addend are brought to one unit, so the exact sum is rounded once on both sides. -/
theorem fusedMultiplyAddFollowsTheRationalRule : Obligations.FusedMultiplyAddFollowsTheRationalRule := fma32_eq_fma32Q

/-- Settles O34, by evaluation. -/
theorem fusedDiffersFromSeparatelyRounded : Obligations.FusedDiffersFromSeparatelyRounded :=
  ⟨by decide +kernel, by decide +kernel, by decide +kernel⟩

end Sys2Proof.Machine
end

section
/-! PROOFS. Where a sum, product or fused result is a NaN: the invalid cases of rules R85 to R87 answer `nanResult`, which
is a quiet NaN (R82), and every other case a float that is none. -/

namespace Sys2Proof.Machine

variable {a b c x : Lane}

/-! ### The values the operations answer -/

theorem isNaN_of_isInf (h : isInf x = true) : isNaN x = false := by
  rw [eq_infinity_of_isInf h, isNaN_infinity]

theorem isNaN_zeroOf (s : Bool) : isNaN (zeroOf s) = false := by cases s <;> decide

theorem isQNaN_nanResult (op : FpOp) (a b c : Lane) : isQNaN (nanResult op a b c) = true := by
  have hexp : expField (nanResult op a b c) = 0xFF#8 := by
    rw [expField, nanResult, BitVec.extractLsb'_or]
    exact BitVec.or_allOnes
  have hquiet : (nanResult op a b c).getLsbD 22 = true := by
    rw [nanResult, BitVec.getLsbD_or]
    exact Bool.or_true _
  have hfrac : fracField (nanResult op a b c) ≠ 0#23 := fun h => by
    have hbit : (fracField (nanResult op a b c)).getLsbD 22 = (nanResult op a b c).getLsbD 22 := by simp [fracField]
    rw [h, hquiet] at hbit
    exact absurd hbit (by decide)
  simp [isQNaN, isNaN, hexp, hfrac, hquiet]

theorem expField_packFloat (s : Bool) (e : BitVec 8) (f : BitVec 23) : expField (packFloat s e f) = e :=
  (extract_append_left _ f 0 8).trans (extract_append_right _ e)

theorem isNaN_packFloat (s : Bool) {e : BitVec 8} (f : BitVec 23) (he : e ≠ 0xFF#8) :
    isNaN (packFloat s e f) = false := by
  simp [isNaN, expField_packFloat, he]

theorem isNaN_packRounded (s : Bool) (n1 : Int) {bigE : Int} (hlow : -126 ≤ bigE) :
    isNaN (packRounded s n1 bigE) = false := by
  unfold packRounded
  extract_lets n2 bigE2
  have hlow2 : -126 ≤ bigE2 := by grind
  split_ifs with hover hsub
  · exact isNaN_infinity s
  · exact isNaN_packFloat s _ (by decide)
  · refine isNaN_packFloat s _ fun he => ?_
    have hnat : ((bigE2 + 127) % 2 ^ 8).toNat = 255 := (BitVec.toNat_ofInt ..).symm.trans (congrArg BitVec.toNat he)
    omega

theorem isNaN_round32 (s : Bool) (n k : Nat) : isNaN (round32 s n k) = false := by
  by_cases hn : n = 0
  · rw [round32, if_pos hn, isNaN_zeroOf]
  · rw [round32_of_ne_zero s k hn]
    exact isNaN_packRounded s _ (le_max_right _ _)

/-! ### The invalid cases -/

/-- The cases of rule R85 that answer a NaN. -/
def AddInvalid (a b : Lane) : Prop :=
  isNaN a = true ∨ isNaN b = true ∨ (isInf a = true ∧ isInf b = true ∧ signBit a ≠ signBit b)

theorem not_addInvalid_iff : ¬ AddInvalid a b ↔
    isNaN a = false ∧ isNaN b = false ∧ ¬ (isInf a = true ∧ isInf b = true ∧ signBit a ≠ signBit b) := by
  simp only [AddInvalid, not_or, Bool.not_eq_true]

/-- The cases of rule R86 that answer a NaN. -/
def MulInvalid (a b : Lane) : Prop :=
  isNaN a = true ∨ isNaN b = true ∨ (isInf a = true ∧ isZero b = true) ∨ (isZero a = true ∧ isInf b = true)

/-- The cases of rule R87 that answer a NaN. -/
def FmaInvalid (a b c : Lane) : Prop :=
  isNaN a = true ∨ isNaN b = true ∨ isNaN c = true ∨ (isInf a = true ∧ isZero b = true) ∨
  (isZero a = true ∧ isInf b = true) ∨
  ((isInf a = true ∨ isInf b = true) ∧ isInf c = true ∧ signBit c ≠ (signBit a ^^ signBit b))

theorem fadd32_of_invalid (h : AddInvalid a b) : fadd32 a b = nanResult .add a b 0 := by
  unfold fadd32
  rcases h with h | h | ⟨ha, hb, hs⟩
  · simp [h]
  · simp [h]
  · simp [ha, hb, hs]

theorem isNaN_fadd32_of_valid (h : ¬ AddInvalid a b) : isNaN (fadd32 a b) = false := by
  obtain ⟨hna, hnb, hopp⟩ := not_addInvalid_iff.1 h
  unfold fadd32
  extract_lets q
  split_ifs with hnan hinf hs ha hb hq hz
  · simp [hna, hnb] at hnan
  · exact hna
  · obtain ⟨ha, hb⟩ := Bool.and_eq_true_iff.1 hinf
    exact absurd ⟨ha, hb, hs⟩ hopp
  · exact isNaN_of_isInf ha
  · exact isNaN_of_isInf hb
  · exact isNaN_zeroOf _
  · exact isNaN_zeroOf _
  · exact isNaN_round32 _ _ _

theorem fmul32_of_invalid (h : MulInvalid a b) : fmul32 a b = nanResult .mul a b 0 := by
  unfold fmul32
  rcases h with h | h | ⟨ha, hb⟩ | ⟨ha, hb⟩
  · simp [h]
  · simp [h]
  · simp [ha, hb]
  · simp [ha, hb]

theorem isNaN_fmul32_of_valid (h : ¬ MulInvalid a b) : isNaN (fmul32 a b) = false := by
  unfold fmul32
  extract_lets s
  split_ifs with hnan hzero hinf
  · rw [Bool.or_eq_true] at hnan
    exact absurd (hnan.imp_right .inl) h
  · simp only [Bool.or_eq_true, Bool.and_eq_true] at hzero
    exact absurd (.inr (.inr hzero)) h
  · exact isNaN_infinity s
  · exact isNaN_round32 _ _ _

theorem fma32_of_invalid (h : FmaInvalid a b c) : fma32 a b c = nanResult .fma a b c := by
  unfold fma32
  rcases h with h | h | h | ⟨ha, hb⟩ | ⟨ha, hb⟩ | ⟨hp, hc, hs⟩
  · simp [h]
  · simp [h]
  · simp [h]
  · simp [ha, hb]
  · simp [ha, hb]
  · simp [hp, hc, hs]

theorem isNaN_fma32_of_valid (h : ¬ FmaInvalid a b c) : isNaN (fma32 a b c) = false := by
  unfold fma32
  extract_lets sp p q
  split_ifs with hnan hzero hprod hopp hc hq hz hs
  · rw [Bool.or_eq_true, Bool.or_eq_true, or_assoc] at hnan
    exact absurd (hnan.imp_right (.imp_right .inl)) h
  · simp only [Bool.or_eq_true, Bool.and_eq_true] at hzero
    exact absurd (.inr (.inr (.inr (hzero.imp_right .inl)))) h
  · rw [Bool.or_eq_true] at hprod
    rw [Bool.and_eq_true, bne_iff_ne] at hopp
    exact absurd (.inr (.inr (.inr (.inr (.inr ⟨hprod, hopp⟩))))) h
  · exact isNaN_infinity sp
  · exact isNaN_of_isInf hc
  · exact isNaN_zeroOf _
  · exact isNaN_zeroOf _
  · exact isNaN_zeroOf _
  · exact isNaN_round32 _ _ _

/-! ### NaN exactly in the invalid cases -/

/-- A result that is `nanResult` in the cases `P` and no NaN outside them is a NaN exactly there, and then quiet. -/
theorem isNaN_iff_and_quiet {P : Prop} {op : FpOp} (hnan : P → x = nanResult op a b c)
    (hnum : ¬ P → isNaN x = false) :
    (isNaN x = true ↔ P) ∧ (isNaN x = true → isQNaN x = true) := by
  by_cases hP : P
  · have hquiet : isQNaN x = true := hnan hP ▸ isQNaN_nanResult op a b c
    exact ⟨iff_of_true (Bool.and_eq_true_iff.1 hquiet).1 hP, fun _ => hquiet⟩
  · have hfalse : ¬ isNaN x = true := by simp [hnum hP]
    exact ⟨iff_of_false hfalse hP, (absurd · hfalse)⟩

theorem isNaN_fadd32_iff_and_quiet (a b : Lane) :
    (isNaN (fadd32 a b) = true ↔ AddInvalid a b) ∧ (isNaN (fadd32 a b) = true → isQNaN (fadd32 a b) = true) :=
  isNaN_iff_and_quiet fadd32_of_invalid isNaN_fadd32_of_valid

theorem isNaN_fmul32_iff_and_quiet (a b : Lane) :
    (isNaN (fmul32 a b) = true ↔ MulInvalid a b) ∧ (isNaN (fmul32 a b) = true → isQNaN (fmul32 a b) = true) :=
  isNaN_iff_and_quiet fmul32_of_invalid isNaN_fmul32_of_valid

theorem isNaN_fma32_iff_and_quiet (a b c : Lane) :
    (isNaN (fma32 a b c) = true ↔ FmaInvalid a b c) ∧ (isNaN (fma32 a b c) = true → isQNaN (fma32 a b c) = true) :=
  isNaN_iff_and_quiet fma32_of_invalid isNaN_fma32_of_valid

/-- Settles O33, by the split of each operation into its invalid and its valid cases. -/
theorem nanResultsAreQuietAndOnlyWhereInvalid : Obligations.NanResultsAreQuietAndOnlyWhereInvalid :=
  ⟨fun a b => (isNaN_fadd32_iff_and_quiet a b).1, fun a b => (isNaN_fmul32_iff_and_quiet a b).1,
    fun a b c => (isNaN_fma32_iff_and_quiet a b c).1, fun a b c => ⟨(isNaN_fadd32_iff_and_quiet a b).2,
      (isNaN_fmul32_iff_and_quiet a b).2, (isNaN_fma32_iff_and_quiet a b c).2⟩⟩

/-! ### Addition is commutative in value (R85) -/

/-- A valid sum is symmetric in its operands: two infinities of one sign are the same lane. -/
theorem fadd32_comm_of_valid (h : ¬ AddInvalid a b) : fadd32 a b = fadd32 b a := by
  obtain ⟨hna, hnb, hopp⟩ := not_addInvalid_iff.1 h
  rcases isFinite_or_isInf hna with ha | ha <;> rcases isFinite_or_isInf hnb with hb | hb
  · simp only [fadd32, hna, hnb, isInf_of_isFinite ha, isInf_of_isFinite hb, add_comm (valUnits a),
      Bool.and_comm (isZero a), Bool.and_comm (signBit a), Bool.or_self, Bool.and_self, Bool.false_eq_true, if_false]
  · simp [fadd32, hna, hnb, isInf_of_isFinite ha, hb]
  · simp [fadd32, hna, hnb, isInf_of_isFinite hb, ha]
  · have hsign : signBit a = signBit b := not_not.1 fun hne => hopp ⟨ha, hb, hne⟩
    have hab : a = b := by rw [eq_infinity_of_isInf ha, hsign, ← eq_infinity_of_isInf hb]
    rw [hab]

/-- Settles O29: both sides round the same exact sum, and a sum that is no NaN is a valid one, so it commutes. -/
theorem additionFollowsTheRationalRule : Obligations.AdditionFollowsTheRationalRule := by
  refine ⟨fadd32_eq_fadd32Q, fun a b hnum => fadd32_comm_of_valid fun hinv => ?_⟩
  rw [(isNaN_fadd32_iff_and_quiet a b).1.2 hinv] at hnum
  cases hnum

end Sys2Proof.Machine
end

section
/-! PROOFS. The four float commands write the lane-wise results (R88 to R91), and the example words decode. -/

namespace Sys2Proof.Machine

variable (rd ra rb rc : Reg) (s : State)

theorem exec_vfadd :
    exec (.vfadd rd ra rb) s =
      commonStep [ra, rb] (fun s => s.finishWrite rd (lanewise2 fadd32 (s.readV ra) (s.readV rb))) s := rfl

theorem exec_vfmul :
    exec (.vfmul rd ra rb) s =
      commonStep [ra, rb] (fun s => s.finishWrite rd (lanewise2 fmul32 (s.readV ra) (s.readV rb))) s := rfl

theorem exec_vfmadd :
    exec (.vfmadd rd ra rb rc) s =
      commonStep [ra, rb, rc]
        (fun s => s.finishWrite rd (lanewise3 fma32 (s.readV ra) (s.readV rb) (s.readV rc))) s := rfl

theorem exec_vfmsub :
    exec (.vfmsub rd ra rb rc) s =
      commonStep [ra, rb, rc]
        (fun s => s.finishWrite rd (lanewise3 fms32 (s.readV ra) (s.readV rb) (s.readV rc))) s := rfl

/-- Settles O26: both are common steps that write a lane-wise vector. -/
theorem vfaddAndVfmulComplete : Obligations.VfaddAndVfmulComplete := fun rd ra rb s hr =>
  ⟨completesWriting_of_exec_eq (exec_vfadd rd ra rb s) hr (lane_lanewise2 fadd32 _ _),
    completesWriting_of_exec_eq (exec_vfmul rd ra rb s) hr (lane_lanewise2 fmul32 _ _)⟩

/-- Settles O27: as O26, and `fms32` is `fma32` with the third operand negated. -/
theorem vfmaddAndVfmsubComplete : Obligations.VfmaddAndVfmsubComplete := fun rd ra rb rc s hr =>
  ⟨completesWriting_of_exec_eq (exec_vfmadd rd ra rb rc s) hr (lane_lanewise3 fma32 _ _ _),
    completesWriting_of_exec_eq (exec_vfmsub rd ra rb rc s) hr (lane_lanewise3 fms32 _ _ _)⟩

end Sys2Proof.Machine

namespace Sys2Proof

/-- Settles O4: each word is the encoding of its instruction. -/
theorem exampleWordsDecode : Obligations.ExampleWordsDecode :=
  ⟨decode_encode (i := .vfadd 4 3 2) rfl, decode_encode (i := .vfmul 3 1 1) rfl,
    decode_encode (i := .vfmadd 5 1 1 2) rfl, decode_encode (i := .vfmsub 8 1 1 2) rfl,
    decode_encode (i := .vuadd 10 10 9) rfl, decode_encode (i := .vuacc 9 9 4) rfl,
    decode_encode (i := .vor 6 3 4) rfl, decode_encode (i := .vandn 10 5 10) rfl,
    decode_encode (i := .vand 3 1 2) rfl, decode_encode (i := .vtestz 3 4) rfl, decode_encode (i := .vst 5) rfl,
    decode_encode (i := .vbcast 4) rfl, decode_encode (i := .vins 1 3) rfl,
    decode_encode (i := .vcmpLtOq 10 9 4) rfl, decode_encode (i := .vcmpInvalidMode 1 2 3 0x20) rfl⟩

end Sys2Proof
end

section
/-! PROOFS. The vector_accumulator: `VUADD` and `VUACC` complete with the modular sum and the masked count, `VUACC` is
`VANDN` and `VUADD`, and the escape state of a lane over any sequence of steps (41_accumulate.md rules R100 to R103). -/

namespace Sys2Proof.Machine

variable {s t : State} {rd ra rb : Reg} {rs qs : List Reg} {val : LaneIx → Lane}

/-! ### The two lane operations -/

/-- R101's indicator. -/
theorem one_and_not (m : Lane) : 1#32 &&& ~~~m = if m.getLsbD 0 then 0#32 else 1#32 := by
  rw [BitVec.and_comm, BitVec.and_one_eq_setWidth_ofBool_getLsbD, BitVec.getLsbD_not]
  cases m.getLsbD 0 <;> rfl

theorem uaccLane_of_bit0 {c m : Lane} (h : m.getLsbD 0 = true) : uaccLane c m = c := by
  simp [uaccLane, one_and_not, h]

theorem uaccLane_zero (c : Lane) : uaccLane c 0#32 = c + 1#32 := rfl

theorem uaddLane_eq_ofNat (a b : Lane) : uaddLane a b = BitVec.ofNat 32 ((a.toNat + b.toNat) % 2 ^ 32) :=
  BitVec.eq_of_toNat_eq (by simp [uaddLane])

theorem uaccLane_eq_ofNat (c m : Lane) :
    uaccLane c m = BitVec.ofNat 32 ((c.toNat + if m.getLsbD 0 then 0 else 1) % 2 ^ 32) := by
  refine (congrArg (c + ·) (one_and_not m)).trans ((uaddLane_eq_ofNat c _).trans ?_)
  cases m.getLsbD 0 <;> rfl

/-! ### The commands -/

theorem exec_vuadd (rd ra rb : Reg) (s : State) :
    exec (.vuadd rd ra rb) s =
      commonStep [ra, rb] (fun s => s.finishWrite rd (lanewise2 uaddLane (s.readV ra) (s.readV rb))) s := rfl

theorem exec_vuacc (rd ra rb : Reg) (s : State) :
    exec (.vuacc rd ra rb) s =
      commonStep [ra, rb] (fun s => s.finishWrite rd (lanewise2 uaccLane (s.readV ra) (s.readV rb))) s := rfl

theorem vuadd_completes (hr : Ready s [ra, rb]) :
    CompletesWriting (.vuadd rd ra rb) s rd fun k => uaddLane (lane (s.readV ra) k) (lane (s.readV rb) k) :=
  completesWriting_of_exec_eq (exec_vuadd rd ra rb s) hr (lane_lanewise2 uaddLane _ _)

theorem vuacc_completes (hr : Ready s [ra, rb]) :
    CompletesWriting (.vuacc rd ra rb) s rd fun k => uaccLane (lane (s.readV ra) k) (lane (s.readV rb) k) :=
  completesWriting_of_exec_eq (exec_vuacc rd ra rb s) hr (lane_lanewise2 uaccLane _ _)

theorem vor_completes (hr : Ready s [ra, rb]) :
    CompletesWriting (.vor rd ra rb) s rd fun k => orLane (lane (s.readV ra) k) (lane (s.readV rb) k) :=
  completesWriting_of_exec_eq (exec_vor rd ra rb s) hr (lane_lanewise2 orLane _ _)

/-- Settles O35: both are common steps that write a lane-wise vector, read here as natural numbers. -/
theorem vuaddAndVuaccComplete : Obligations.VuaddAndVuaccComplete := fun _ _ _ _ hr =>
  ⟨by simpa only [uaddLane_eq_ofNat] using vuadd_completes hr,
    by simpa only [uaccLane_eq_ofNat] using vuacc_completes hr⟩

/-! ### Two commands in a row -/

theorem Ready.mono (h : Ready s rs) (hsub : qs ⊆ rs) : Ready s qs := ⟨h.1, fun r hq => h.2 r (hsub hq)⟩

/-- After a register write the unit is ready for the register written and all it was ready for. -/
theorem WritesRegister.ready (hw : WritesRegister s t rd val) (hr : Ready s rs) : Ready t (rd :: rs) := by
  refine ⟨hw.record.1.trans hr.1, fun r hmem => ?_⟩
  by_cases hrd : r = rd
  · exact hrd ▸ hw.valid
  · exact (hw.otherRegisters r hrd).2.trans (hr.2 r (List.mem_of_ne_of_mem hrd hmem))

/-- Settles O36: with 1 in every lane of `vone`, the lane `VANDN` leaves in `vt` is the indicator that `VUACC` adds. -/
theorem vuaccEqualsAndnThenAdd : Obligations.VuaccEqualsAndnThenAdd := by
  intro vd va vb vone vt s hr hne hone
  obtain ⟨t, ht, hacc⟩ := vuacc_completes (rd := vd) (hr.mono (qs := [va, vb]) (by simp))
  obtain ⟨u, hu, handn⟩ := vandn_completes (d := vt) (hr.mono (qs := [vone, vb]) (by simp))
  obtain ⟨w, hw, hadd⟩ := vuadd_completes (rd := vd) ((handn.ready hr).mono (qs := [va, vt]) (by simp))
  refine ⟨t, u, w, ht, hu, hw, eq_of_lanes fun k => ?_⟩
  have hva : u.readV va = s.readV va := (handn.otherRegisters va hne.symm).1
  rw [hadd.lanes, hacc.lanes, hva, handn.lanes, hone]
  rfl

/-- Settles O37: `VOR` leaves the count and `VUACC` leaves the mask. -/
theorem escapeStepActsOnEveryLane : Obligations.EscapeStepActsOnEveryLane := by
  intro m c x s hr hne
  obtain ⟨t, ht, hor⟩ := vor_completes (rd := m) (hr.mono (qs := [m, x]) (by simp))
  obtain ⟨u, hu, hacc⟩ := vuacc_completes (rd := c) ((hor.ready hr).mono (qs := [c, m]) (by simp))
  refine ⟨t, u, ht, hu, fun k => ?_⟩
  have hm : u.readV m = t.readV m := (hacc.otherRegisters m hne).1
  have hc : t.readV c = s.readV c := (hor.otherRegisters c hne.symm).1
  rw [hacc.lanes, hm, hor.lanes, hc, escapeStep]

/-! ### The escape state over a sequence of steps (R103) -/

theorem getLsbD_orLane (m x : Lane) (i : Nat) : (orLane m x).getLsbD i = (m.getLsbD i || x.getLsbD i) :=
  BitVec.getLsbD_or

/-- (a) A mask bit that is 1 stays 1. -/
theorem getLsbD_foldl_escapeStep {xs : List Lane} {m : Lane} (c : Lane) {i : Nat} (h : m.getLsbD i = true) :
    (xs.foldl escapeStep (m, c)).1.getLsbD i = true := by
  induction xs generalizing m c with
  | nil => exact h
  | cons x xs ih => exact ih _ (by rw [getLsbD_orLane, h, Bool.true_or])

theorem and_foldl_escapeStep (xs : List Lane) (m c : Lane) : m &&& (xs.foldl escapeStep (m, c)).1 = m := by
  refine BitVec.eq_of_getLsbD_eq fun i _ => ?_
  rw [BitVec.getLsbD_and]
  cases h : m.getLsbD i with
  | false => rfl
  | true => rw [getLsbD_foldl_escapeStep c h, Bool.and_self]

theorem eq_zero_of_foldl_escapeStep {xs : List Lane} {m c : Lane} (h : (xs.foldl escapeStep (m, c)).1 = 0#32) :
    m = 0#32 := by
  rw [← and_foldl_escapeStep xs m c, h, BitVec.and_zero]

/-- (b) The count is frozen once bit 0 of the mask is 1. -/
theorem foldl_escapeStep_count_of_bit0 {xs : List Lane} {m : Lane} (c : Lane) (h : m.getLsbD 0 = true) :
    (xs.foldl escapeStep (m, c)).2 = c := by
  induction xs generalizing m with
  | nil => rfl
  | cons x xs ih =>
    have hx : (orLane m x).getLsbD 0 = true := by rw [getLsbD_orLane, h, Bool.true_or]
    rw [List.foldl_cons, escapeStep, uaccLane_of_bit0 hx, ih hx]

theorem foldl_escapeStep_ones32 (xs : List Lane) (c : Lane) : xs.foldl escapeStep (ones32, c) = (ones32, c) :=
  Prod.ext (BitVec.allOnes_and.symm.trans (and_foldl_escapeStep xs ones32 c)) (foldl_escapeStep_count_of_bit0 c rfl)

theorem escapeStep_zero (c x : Lane) : escapeStep (0#32, c) x = (x, uaccLane c x) := by
  rw [escapeStep, orLane, BitVec.zero_or]

theorem add_one_add_ofNat (c : Lane) (n : Nat) : c + 1#32 + BitVec.ofNat 32 n = c + BitVec.ofNat 32 (n + 1) := by
  rw [BitVec.add_assoc, Nat.add_comm n 1, BitVec.ofNat_add]

/-- (c) The count rises by one per step while the mask is zero. -/
theorem foldl_escapeStep_count_of_zero {xs : List Lane} {m : Lane} (c : Lane)
    (h : (xs.foldl escapeStep (m, c)).1 = 0#32) :
    (xs.foldl escapeStep (m, c)).2 = c + BitVec.ofNat 32 xs.length := by
  induction xs generalizing m c with
  | nil => exact (BitVec.add_zero c).symm
  | cons x xs ih =>
    have hx : orLane m x = 0#32 := eq_zero_of_foldl_escapeStep h
    rw [List.foldl_cons, escapeStep, hx, uaccLane_zero] at h ⊢
    rw [ih _ h, List.length_cons, add_one_add_ofNat]

/-- With masks for `X`, the steps up to the first all-ones `X` count, and that one sets the mask for good. -/
theorem foldl_escapeStep_of_masks {xs : List Lane} (c : Lane) (hxs : ∀ x ∈ xs, x = zero32 ∨ x = ones32) :
    ((xs.foldl escapeStep (0#32, c)).1 = zero32 ∨ (xs.foldl escapeStep (0#32, c)).1 = ones32) ∧
    (xs.foldl escapeStep (0#32, c)).2 = c + BitVec.ofNat 32 (xs.takeWhile (· == zero32)).length := by
  induction xs generalizing c with
  | nil => exact ⟨.inl rfl, (BitVec.add_zero c).symm⟩
  | cons x xs ih =>
    obtain ⟨hx, hrest⟩ := List.forall_mem_cons.1 hxs
    rw [List.foldl_cons]
    obtain rfl | rfl := hx
    · rw [escapeStep_zero, uaccLane_zero, List.takeWhile_cons_of_pos rfl, List.length_cons]
      obtain ⟨hmask, hcount⟩ := ih (c + 1#32) hrest
      exact ⟨hmask, hcount.trans (add_one_add_ofNat c _)⟩
    · rw [escapeStep_zero, uaccLane_of_bit0 rfl, foldl_escapeStep_ones32, List.takeWhile_cons_of_neg (by decide)]
      exact ⟨.inr rfl, (BitVec.add_zero c).symm⟩

/-- Settles O38. -/
theorem escapeStateIsMonotonicAndCounts : Obligations.EscapeStateIsMonotonicAndCounts :=
  ⟨and_foldl_escapeStep, fun _ _ c => foldl_escapeStep_count_of_bit0 c, fun _ _ c => foldl_escapeStep_count_of_zero c,
    fun _ hxs => by simpa only [BitVec.zero_add] using foldl_escapeStep_of_masks 0#32 hxs⟩

end Sys2Proof.Machine
end

section
/-! PROOFS. The comparator's bitwise commands: on 256 bits they are `|||`, `&&&` and the AND with a complemented second
operand, which gives the identities and the completions (42_bitwise.md rules R110 to R114). -/

namespace Sys2Proof.Machine

variable {s : State} {ra rb : Reg} {x y : Lane}

/-! ### The lane-wise operations are the 256-bit ones -/

theorem lanewise2_orLane (a b : VReg) : lanewise2 orLane a b = a ||| b :=
  eq_of_lanes fun k => (lane_lanewise2 orLane a b k).trans (lane_or a b k).symm

theorem lanewise2_andLane (a b : VReg) : lanewise2 andLane a b = a &&& b :=
  eq_of_lanes fun k => (lane_lanewise2 andLane a b k).trans (lane_and a b k).symm

theorem lanewise2_andnLane (a b : VReg) : lanewise2 andnLane a b = a &&& ~~~b := by
  refine eq_of_lanes fun k => ?_
  rw [lane_lanewise2, lane_and, lane_not, andnLane]

/-! ### The identities (R114) -/

theorem and_or_and_not (a b : VReg) : a &&& b ||| a &&& ~~~b = a := by
  rw [← BitVec.and_or_distrib_left, BitVec.or_not_self, BitVec.and_allOnes]

theorem testZ_eq_true_iff (a b : VReg) : testZ a b = true ↔ a &&& b = 0#256 := beq_iff_eq

theorem testZ_and_not_self (a b : VReg) : testZ (a &&& ~~~b) b = true := by
  rw [testZ_eq_true_iff, BitVec.and_assoc, BitVec.not_and_self]
  exact BitVec.and_zero

/-- A lane that is all-zero or all-ones, as a comparison leaves it. -/
def IsMask (x : Lane) : Prop := x = zero32 ∨ x = ones32

theorem IsMask.not (hx : IsMask x) : IsMask (~~~x) := by
  obtain rfl | rfl := hx
  · exact .inr rfl
  · exact .inl rfl

theorem IsMask.or (hx : IsMask x) (hy : IsMask y) : IsMask (x ||| y) := by
  obtain rfl | rfl := hx
  · exact BitVec.zero_or.symm ▸ hy
  · exact .inr BitVec.allOnes_or

theorem IsMask.and (hx : IsMask x) (hy : IsMask y) : IsMask (x &&& y) := by
  obtain rfl | rfl := hx
  · exact .inl BitVec.zero_and
  · exact BitVec.allOnes_and.symm ▸ hy

/-- Settles O41: the first four read on 256 bits, the last lane by lane. -/
theorem bitwiseIdentities : Obligations.BitwiseIdentities := by
  refine ⟨fun a b => ?_, fun a b ha hb k => ?_⟩
  · rw [lanewise2_andnLane, lanewise2_andLane, lanewise2_andLane, lanewise2_orLane]
    exact ⟨rfl, and_or_and_not a b, testZ_eq_true_iff a b, testZ_and_not_self a b⟩
  · have hak : IsMask (lane a k) := ha k
    have hbk : IsMask (lane b k) := hb k
    rw [lane_lanewise2, lane_lanewise2, lane_lanewise2]
    exact ⟨hak.or hbk, hak.and hbk, hak.and hbk.not⟩

/-! ### The commands (R110 to R113) -/

theorem exec_vand (rd ra rb : Reg) (s : State) :
    exec (.vand rd ra rb) s =
      commonStep [ra, rb] (fun s => s.finishWrite rd (lanewise2 andLane (s.readV ra) (s.readV rb))) s := rfl

theorem exec_vtestz (ra rb : Reg) (s : State) :
    exec (.vtestz ra rb) s =
      commonStep [ra, rb] (fun s => s.finishTest (testZ (s.readV ra) (s.readV rb))) s := rfl

/-- Settles O39: each is a common step that writes the 256-bit result. -/
theorem bitwiseCommandsComplete : Obligations.BitwiseCommandsComplete := fun rd ra rb s hr =>
  ⟨completesWriting_of_exec_eq (exec_vor rd ra rb s) hr fun _ => by rw [lanewise2_orLane],
    completesWriting_of_exec_eq (exec_vandn rd ra rb s) hr fun _ => by rw [lanewise2_andnLane],
    completesWriting_of_exec_eq (exec_vand rd ra rb s) hr fun _ => by rw [lanewise2_andLane]⟩

theorem exec_vtestz_of_ready (hr : Ready s [ra, rb]) :
    exec (.vtestz ra rb) s = .next (s.finishTest (testZ (s.readV ra) (s.readV rb))) :=
  (exec_vtestz ra rb s).trans (commonStep_ready hr)

theorem finishTest_answers (s : State) (b : Bool) : Answers s (s.finishTest b) ⟨.ok, b⟩ := ⟨rfl, rfl, rfl, rfl⟩

/-- Settles O40: the end of the all-zero test changes the flag and the responses only. -/
theorem vtestzCompletes : Obligations.VtestzCompletes := fun _ _ _ hr =>
  ⟨_, exec_vtestz_of_ready hr, testZ_iff _ _, readV_finishTest _ _, rfl, ⟨rfl, rfl, rfl, rfl⟩, fun _ => rfl,
    finishTest_answers _ _, rfl⟩

end Sys2Proof.Machine
end

section
/-! PROOFS. The 16 base predicates of the comparator: the swaps of their operands, their values on the four classes of
lane pairs, and the complements four apart (44_compare.md rules R140 to R159). -/

namespace Sys2Proof.Machine

variable {a b : Lane}

/-! ### Operands swapped (R158) -/

theorem relEq_comm (a b : Lane) : relEq a b = relEq b a := by
  rw [relEq, relEq, nanPair_comm, Bool.beq_comm]

/-- Settles O58: `GT` and `GE` are `LT` and `LE` swapped, and equality and unorderedness are symmetric. -/
theorem swappedOperands : Obligations.SwappedOperands := by
  intro a b
  simp only [p0, p1, p2, p3, p4, p5, p6, p7, p8, p9, p10, p11, p12, p13, p14, p15, relGt_eq_relLt_swap a b,
    relGe_eq_relLe_swap a b, relEq_comm a b, nanPair_comm a b, and_self]

/-! ### The four classes (R156) -/

theorem four_classes (a b : Lane) :
    (nanPair a b = true ∧ relLt a b = false ∧ relEq a b = false ∧ relGt a b = false) ∨
    (nanPair a b = false ∧ relLt a b = true ∧ relEq a b = false ∧ relGt a b = false) ∨
    (nanPair a b = false ∧ relLt a b = false ∧ relEq a b = true ∧ relGt a b = false) ∨
    (nanPair a b = false ∧ relLt a b = false ∧ relEq a b = false ∧ relGt a b = true) := by
  cases hn : nanPair a b with
  | true =>
    obtain ⟨heq, hlt, -, hgt, -⟩ := relations_of_nanPair hn
    exact .inl ⟨rfl, hlt, heq, hgt⟩
  | false => simpa using relations_trichotomy hn

/-- Unlike `relLe_eq`, also of a pair with a NaN, where all three are false. -/
theorem relLe_eq_or (a b : Lane) : relLe a b = (relLt a b || relEq a b) := Bool.and_or_distrib_left ..

theorem relGe_eq_or (a b : Lane) : relGe a b = (relGt a b || relEq a b) := Bool.and_or_distrib_left ..

theorem classWord_of_nanPair (h : nanPair a b = true) : classWord a b = 0x8778#16 := if_pos h

/-- The values of all 16 base predicates are the bits of the class word, class by class. -/
theorem basePredicates_map_eq_bits (a b : Lane) :
    basePredicates.map (fun p => p a b) = (List.range 16).map (classWord a b).getLsbD := by
  rcases four_classes a b with ⟨hn, hlt, heq, hgt⟩ | ⟨hn, hlt, heq, hgt⟩ | ⟨hn, hlt, heq, hgt⟩ | ⟨hn, hlt, heq, hgt⟩
  all_goals
    simp only [basePredicates, List.map, p0, p1, p2, p3, p4, p5, p6, p7, p8, p9, p10, p11, p12, p13, p14, p15,
      relLe_eq_or, relGe_eq_or, classWord, hn, hlt, heq, hgt]
    decide

/-- `P_k` (R140 to R155). -/
def basePredicate (k : Fin 16) : Lane → Lane → Bool := basePredicates[k.val]'k.isLt

theorem basePredicates_getElem? (k : Fin 16) : basePredicates[k.val]? = some (basePredicate k) :=
  List.getElem?_eq_getElem _

theorem basePredicate_eq_getLsbD_classWord (k : Fin 16) (a b : Lane) :
    basePredicate k a b = (classWord a b).getLsbD k := by
  have h := congrArg (·[k.val]?) (basePredicates_map_eq_bits a b)
  simpa [basePredicates_getElem?] using h

/-- Settles O59: the class word of an unordered pair is one constant, and its bits are the 16 values. -/
theorem nanPairsDependOnTheModeAlone : Obligations.NanPairsDependOnTheModeAlone := by
  intro a b hab
  have hn : nanPair a b = true := (Bool.or_eq_true ..).mpr hab
  have hbit (k : Fin 16) : basePredicate k a b = (0x8778#16).getLsbD k := by
    rw [basePredicate_eq_getLsbD_classWord, classWord_of_nanPair hn]
  exact ⟨⟨hbit 3, hbit 4, hbit 5, hbit 6, hbit 8, hbit 9, hbit 10, hbit 15⟩,
    hbit 0, hbit 1, hbit 2, hbit 7, hbit 11, hbit 12, hbit 13, hbit 14⟩

/-! ### Predicates four apart (R157) -/

theorem val_xor_four : ∀ k : Fin 16, (k ^^^ 4).val = k.val ^^^ 4 := by decide

theorem classWord_getLsbD_xor_four (k : Fin 16) (a b : Lane) :
    (classWord a b).getLsbD (k ^^^ 4 : Fin 16) = !(classWord a b).getLsbD k := by
  unfold classWord
  split_ifs <;> revert k <;> decide

theorem basePredicate_xor_four (k : Fin 16) (a b : Lane) : basePredicate (k ^^^ 4) a b = !basePredicate k a b := by
  rw [basePredicate_eq_getLsbD_classWord, basePredicate_eq_getLsbD_classWord, classWord_getLsbD_xor_four]

end Sys2Proof.Machine
end

section
/-! PROOFS. `VCMP`: in each mode it does what the mode's base predicate says, in the constant modes without its sources,
and with a mode value of 32 or more it faults (44_compare.md rules R130 to R137, R140 to R157). -/

namespace Sys2Proof.Machine

variable {s : State} {i : Instr} {rd ra rb : Reg} {p : Lane → Lane → Bool}

/-! ### The invalid modes (R136) -/

theorem exec_vcmpInvalidMode (rd ra rb : Reg) (mode : BitVec 8) (s : State) :
    exec (.vcmpInvalidMode rd ra rb mode) s = commonStep [] (fun s => s.raise .invalidMode) s := rfl

theorem exec_vcmpInvalidMode_faults (rd ra rb : Reg) (mode : BitVec 8) (hf : s.faulted = false) :
    ∃ t, exec (.vcmpInvalidMode rd ra rb mode) s = .next t ∧ EntersFault s t .invalidMode ∧ SameMemory s t :=
  ⟨_, (exec_vcmpInvalidMode rd ra rb mode s).trans (commonStep_ready (ready_nil hf)),
    raise_entersFault s .invalidMode, fun _ => rfl⟩

/-- Settles O54: such a word decodes to the invalid mode, which is a common step with no source that raises. -/
theorem invalidModeFaults : Obligations.InvalidModeFaults := by
  refine ⟨fun s c rest rd ra rb mode hf hi hw hmode => ?_, fun _ => exec_vcmpInvalidMode_faults⟩
  have hd : decode c.w = .ok (.vcmpInvalidMode rd ra rb mode) := by
    rw [hw, decode_packWord_vcmp, vcmpOfMode_of_le hmode]
  rw [step_command_decoded hi hf hd]
  exact exec_vcmpInvalidMode_faults rd ra rb mode hf

/-! ### The modes that read their operands (R130) -/

theorem completesComparing_of_exec_eq (hexec : exec i s = compareLanes p rd ra rb s) (hr : Ready s [ra, rb]) :
    CompletesComparing i s rd ra rb p :=
  completesWriting_of_exec_eq hexec hr (lane_lanewise2 _ _ _)

/-- Settles O49: each arm compares with the base predicate of its mode, which is the condition stated. -/
theorem orderedRelationsComplete : Obligations.OrderedRelationsComplete := by
  intro rd ra rb s hr
  and_intros <;> exact completesComparing_of_exec_eq rfl hr

/-- Settles O50, as O49. -/
theorem unorderedNegatedRelationsComplete : Obligations.UnorderedNegatedRelationsComplete := by
  intro rd ra rb s hr
  and_intros <;> exact completesComparing_of_exec_eq rfl hr

/-- Settles O51, as O49. -/
theorem orderednessAndMixedModesComplete : Obligations.OrderednessAndMixedModesComplete := by
  intro rd ra rb s hr
  and_intros <;> exact completesComparing_of_exec_eq rfl hr

/-! ### The constant modes (R137) -/

theorem completesWriting_of_exec_eq_compareConstant {c : Bool} (hexec : exec i s = compareConstant c rd s)
    (hf : s.faulted = false) : CompletesWriting i s rd fun _ => maskLane c :=
  completesWriting_of_exec_eq hexec (ready_nil hf) (lane_broadcast _)

/-- Settles O52: each arm is a common step with no source that writes one constant mask. -/
theorem constantModesReadNoRegister : Obligations.ConstantModesReadNoRegister := fun _ _ _ _ hf =>
  ⟨completesWriting_of_exec_eq_compareConstant (c := false) rfl hf,
    completesWriting_of_exec_eq_compareConstant (c := false) rfl hf,
    completesWriting_of_exec_eq_compareConstant (c := true) rfl hf,
    completesWriting_of_exec_eq_compareConstant (c := true) rfl hf⟩

/-! ### All modes by their base predicate (R134, R135) -/

/-- What `VCMP` does in the two modes with the base predicate `P_k`. -/
def compareBase (k : Fin 16) (rd ra rb : Reg) (s : State) : Host.Outcome State Fault Refusal :=
  if k = 11 then compareConstant false rd s
  else if k = 15 then compareConstant true rd s
  else compareLanes (basePredicate k) rd ra rb s

theorem exec_vcmpMode (m : Fin 32) (rd ra rb : Reg) (s : State) :
    exec (vcmpMode m rd ra rb) s = compareBase (Fin.ofNat 16 m) rd ra rb s := by
  fin_cases m <;> rfl

/-- Settles O53: both modes have the number `m` modulo 16. -/
theorem signalingAttributeHasNoEffect : Obligations.SignalingAttributeHasNoEffect := by
  intro m rd ra rb s
  have hbase : Fin.ofNat 16 m.val = Fin.ofNat 16 (m.val + 16) := by simp [Fin.ofNat]
  rw [exec_vcmpMode, exec_vcmpMode, hbase]

theorem completesComparing_of_exec_eq_compareBase {k : Fin 16} (hexec : exec i s = compareBase k rd ra rb s)
    (hr : Ready s [ra, rb]) : CompletesComparing i s rd ra rb (basePredicate k) := by
  unfold compareBase at hexec
  split_ifs at hexec with hfalse htrue
  · subst hfalse
    exact completesWriting_of_exec_eq_compareConstant hexec hr.1
  · subst htrue
    exact completesWriting_of_exec_eq_compareConstant hexec hr.1
  · exact completesComparing_of_exec_eq hexec hr

theorem vcmpMode_completes (m : Fin 32) (hr : Ready s [ra, rb]) :
    CompletesComparing (vcmpMode m rd ra rb) s rd ra rb (basePredicate (Fin.ofNat 16 m)) :=
  completesComparing_of_exec_eq_compareBase (exec_vcmpMode m rd ra rb s) hr

/-- Settles O56: the base predicate of the mode is a bit of the class word. -/
theorem fourClassTable : Obligations.FourClassTable := by
  refine ⟨four_classes, fun m rd ra rb s hr => ?_⟩
  have hbit : basePredicate (Fin.ofNat 16 m) = fun a b => (classWord a b).getLsbD (m.val % 16) :=
    funext₂ (basePredicate_eq_getLsbD_classWord _)
  exact hbit ▸ vcmpMode_completes m hr

theorem modulo16_xor_four : ∀ m : Fin 32, Fin.ofNat 16 (m ^^^ 4 : Fin 32) = Fin.ofNat 16 m ^^^ 4 := by decide

theorem ite_not_mask (c : Bool) : (if !c then ones32 else zero32) = ~~~(if c then ones32 else zero32) := by
  cases c <;> decide

/-- Settles O57: the base predicate of mode `m xor 4` is the negation of that of mode `m`. -/
theorem modesFourApartAreComplements : Obligations.ModesFourApartAreComplements := by
  refine ⟨fun k a b => ?_, fun m rd ra rb s hr => ?_⟩
  · rw [← val_xor_four, basePredicates_getElem?, basePredicates_getElem?, Option.map_some, Option.map_some,
      basePredicate_xor_four]
  · obtain ⟨t, ht, hwt⟩ := vcmpMode_completes (rd := rd) m hr
    obtain ⟨u, hu, hwu⟩ := vcmpMode_completes (rd := rd) (m ^^^ 4) hr
    refine ⟨t, u, ht, hu, eq_of_lanes fun k => ?_⟩
    rw [lane_not, hwt.lanes, hwu.lanes, modulo16_xor_four, basePredicate_xor_four, ite_not_mask]

end Sys2Proof.Machine
end

section
/-! PROOFS. A faulted unit over any run without a reset (60_exceptions.md rules R176, R177): each step keeps it quiescent,
and quiescence composes along the run. -/

namespace Sys2Proof.Machine

variable {s t u : State} {n : Nat}

/-- `t` comes after `s` by refusals and host writes alone: the unit is the same, every new response is a refusal, nothing
new is pending, and only a host write has changed memory. -/
structure Quiescent (s t : State) : Prop where
  unit : SameUnit s t
  refusals : ∃ k, t.responses = s.responses ++ List.replicate k ⟨.refused, false⟩
  pending : t.inbox ⊆ s.inbox
  memory : (∀ a ∈ s.inbox, a.isCommand = true) → SameMemory s t

theorem SameUnit.trans (hst : SameUnit s t) (htu : SameUnit t u) : SameUnit s u where
  registers r := (htu.registers r).trans (hst.registers r)
  status := htu.status.trans hst.status

theorem SameUnit.faulted (h : SameUnit s t) : t.faulted = s.faulted := congrArg StatusOutputs.faulted h.status

theorem Quiescent.refl (s : State) : Quiescent s s :=
  ⟨⟨fun _ => rfl, rfl⟩, ⟨0, (List.append_nil _).symm⟩, List.Subset.refl _, fun _ _ => rfl⟩

theorem Quiescent.trans (hst : Quiescent s t) (htu : Quiescent t u) : Quiescent s u where
  unit := hst.unit.trans htu.unit
  refusals := by
    obtain ⟨j, hj⟩ := hst.refusals
    obtain ⟨k, hk⟩ := htu.refusals
    exact ⟨j + k, by rw [hk, hj, List.append_assoc, List.replicate_append_replicate]⟩
  pending := List.Subset.trans htu.pending hst.pending
  memory hcmd x := (htu.memory (fun a ha => hcmd a (hst.pending ha)) x).trans (hst.memory hcmd x)

theorem step_quiescent (hf : s.faulted = true) (hno : ∀ a ∈ s.inbox, a.isReset = false) (h : step s = .next t) :
    Quiescent s t := by
  cases step_outcome h with
  | idle => exact Quiescent.refl s
  | reset hi => exact nomatch hno .reset (hi ▸ List.mem_cons_self)
  | interrupted hi => exact nomatch hno (.resetDuring _) (hi ▸ List.mem_cons_self)
  | hostWrite hi =>
    exact ⟨⟨fun _ => rfl, rfl⟩, ⟨0, (List.append_nil _).symm⟩, hi ▸ List.subset_cons_self _ _,
      fun hcmd => nomatch hcmd (.memWrite _ _) (hi ▸ List.mem_cons_self)⟩
  | command hi =>
    obtain rfl := Host.Outcome.next.inj (h.symm.trans (step_command_faulted hi hf))
    exact ⟨⟨fun _ => rfl, rfl⟩, ⟨1, rfl⟩, hi ▸ List.subset_cons_self _ _, fun _ _ => rfl⟩

theorem run_succ_of_step (M : Host.Core) {x y : M.State} (h : M.step x = .next y) : M.run (n + 1) x = M.run n y := by
  rw [Host.Core.run, h]

theorem run_quiescent (hf : s.faulted = true) (hno : ∀ a ∈ s.inbox, a.isReset = false)
    (h : Host.Core.run core n s = .next t) : Quiescent s t := by
  induction n generalizing s with
  | zero =>
    obtain rfl : s = t := Host.Outcome.next.inj h
    exact Quiescent.refl s
  | succ n ih =>
    obtain ⟨u, hstep, -⟩ := exists_step_outcome s
    have hsu := step_quiescent hf hno hstep
    refine hsu.trans (ih (hsu.unit.faulted.trans hf) (fun a ha => hno a (hsu.pending ha)) ?_)
    exact (run_succ_of_step core hstep).symm.trans h

/-- Settles O20, by induction on the number of steps: each keeps the unit faulted and quiescent. -/
theorem faultedUnitStaysQuiescentUntilReset : Obligations.FaultedUnitStaysQuiescentUntilReset := by
  intro n s t hf hno h
  obtain ⟨hunit, hrefusals, -, hmemory⟩ := run_quiescent hf hno h
  exact ⟨hunit, hrefusals, hmemory⟩

end Sys2Proof.Machine
end

section
/-! PROOFS. A reset during a command: the unit as after the reset event, each lane word of an interrupted store old or new
(R190, R191, R45). -/

namespace Sys2Proof.Machine

/-- A lane word after a store of some writable words is the old one, or writable and the register's (R45). -/
theorem laneWord_storeLanes_partialSelection (s : State) (a : Nat) (v : VReg) (i : LaneIx) :
    (∀ j, (s.mem.storeLanes a v (partialSelection s a) laneIxs).read (byteAt a i j) = s.mem.read (byteAt a i j)) ∨
    (s.writableAt (a + 4 * i.val) = true ∧
      ∀ j, (s.mem.storeLanes a v (partialSelection s a) laneIxs).read (byteAt a i j) = some (storedByte v i j)) := by
  have hread (j : Fin 4) := Memory.read_storeLanes_byteAt s.mem a v (partialSelection s a) i j
  by_cases hsel : partialSelection s a i = true
  · exact .inr ⟨writableAt_of_partialSelection hsel, fun j => (hread j).trans (if_pos hsel)⟩
  · exact .inl fun j => (hread j).trans (if_neg hsel)

/-- Settles O60: either nothing but the reset event took place, or the store had passed its checks and left old or new
words, and then none of the conditions of the last clause holds. -/
theorem resetDuringACommand : Obligations.ResetDuringACommand := by
  intro s c rest hi
  refine ⟨_, step_resetDuring hi, ?_⟩
  rcases resetDuring_cases c { s with inbox := rest } with h | ⟨ra, hd, hf, hv, hal, ha, h⟩ <;> rw [h]
  · exact ⟨rfl, rfl, rfl, rfl, fun _ _ => rfl, fun _ => .inl fun _ => rfl, fun _ _ => rfl⟩
  · refine ⟨rfl, rfl, rfl, rfl, fun x hx => Memory.read_storeLanes_outside _ _ _ _ _ _ hx, fun i => ?_, fun hbad => ?_⟩
    · exact (laneWord_storeLanes_partialSelection { s with inbox := rest } c.xs.toNat (s.readV ra) i).imp_right
        fun ⟨hw, hnew⟩ => ⟨ra, hd, hw, hnew⟩
    · rcases hbad with hf' | hv' | hal' | ha'
      · exact nomatch hf.symm.trans hf'
      · exact nomatch hv.symm.trans (hv' ra hd)
      · exact absurd hal hal'
      · exact absurd ha' ha.not_gt

end Sys2Proof.Machine
end

section
/-! PROOFS. Runs that take every pending action: each command gets one response, and all responses are OK iff the unit does
not end faulted (R196, R199, R201). -/

namespace Sys2Proof.Machine

variable {s t u : State} {n : Nat} {a : HostAction} {rest : List HostAction} {d : Except DecodeError Instr}

/-! ### A run answers every command -/

/-- A step takes the next action and answers it if it is a command. -/
theorem step_takes_and_answers (hi : s.inbox = a :: rest) :
    ∃ t new, step s = .next t ∧ t.inbox = rest ∧ t.responses = s.responses ++ new ∧
      new.length = ([a].filter HostAction.isCommand).length := by
  obtain ⟨t, ht, -, hcommand, hreset, hduring, hwrite⟩ := everyStepAnswersItsAction.1 s
  have silent (h : t.inbox = rest ∧ t.responses = s.responses) :
      t.inbox = rest ∧ t.responses = s.responses ++ [] := by rwa [List.append_nil]
  cases a with
  | command c =>
    obtain ⟨hin, r, hresp, -⟩ := hcommand c rest hi
    exact ⟨t, [r], ht, hin, hresp, rfl⟩
  | reset =>
    obtain ⟨hin, hresp⟩ := silent (hreset rest hi)
    exact ⟨t, [], ht, hin, hresp, rfl⟩
  | resetDuring c =>
    obtain ⟨hin, hresp⟩ := silent (hduring c rest hi)
    exact ⟨t, [], ht, hin, hresp, rfl⟩
  | memWrite x b =>
    obtain ⟨hin, hresp⟩ := silent (hwrite x b rest hi)
    exact ⟨t, [], ht, hin, hresp, rfl⟩

theorem run_answers_pending {pending : List HostAction} (hi : s.inbox = pending) :
    ∃ t new, Host.Core.run core pending.length s = .next t ∧ t.inbox = [] ∧ t.responses = s.responses ++ new ∧
      new.length = (pending.filter HostAction.isCommand).length := by
  induction pending generalizing s with
  | nil => exact ⟨s, [], rfl, hi, (List.append_nil _).symm, rfl⟩
  | cons a rest ih =>
    obtain ⟨t, new, hstep, hin, hresp, hlen⟩ := step_takes_and_answers hi
    obtain ⟨u, new', hrun, hin', hresp', hlen'⟩ := ih hin
    refine ⟨u, new ++ new', (run_succ_of_step core hstep).trans hrun, hin', ?_, ?_⟩
    · rw [hresp', hresp, List.append_assoc]
    · rw [List.length_append, hlen, hlen', ← List.length_append, ← List.filter_append, List.singleton_append]

/-- Settles O8, by induction on the pending actions. -/
theorem runAnswersEveryCommand : Obligations.RunAnswersEveryCommand := fun _ => run_answers_pending rfl

/-! ### A run succeeds iff the unit is not faulted at its end -/

/-- `t` comes after `s`, and its new responses are all OK iff the unit is not faulted in `t` (R201). -/
def SucceedsIffUnfaulted (s t : State) : Prop :=
  ∃ new, t.responses = s.responses ++ new ∧ ((∀ r ∈ new, r.status = .ok) ↔ t.faulted = false)

theorem succeedsIffUnfaulted_of_silent (hresp : t.responses = s.responses) (hf : t.faulted = false) :
    SucceedsIffUnfaulted s t :=
  ⟨[], by rw [hresp, List.append_nil], fun _ => hf, fun _ => nofun⟩

theorem succeedsIffUnfaulted_of_answer {r : Response} (hresp : t.responses = s.responses ++ [r])
    (hr : r.status = .ok ↔ t.faulted = false) : SucceedsIffUnfaulted s t :=
  ⟨[r], hresp, by rwa [List.forall_mem_singleton]⟩

/-- A successful run continues as the rest of it goes. -/
theorem SucceedsIffUnfaulted.trans (hst : SucceedsIffUnfaulted s t) (hf : t.faulted = false)
    (htu : SucceedsIffUnfaulted t u) : SucceedsIffUnfaulted s u := by
  obtain ⟨new, hresp, hok⟩ := hst
  obtain ⟨new', hresp', hok'⟩ := htu
  refine ⟨new ++ new', by rw [hresp', hresp, List.append_assoc], ?_⟩
  rw [List.forall_mem_append, hok, hok']
  exact and_iff_right hf

/-- After a fault the run has failed, whatever comes before the next reset. -/
theorem SucceedsIffUnfaulted.trans_quiescent (hst : SucceedsIffUnfaulted s t) (hf : t.faulted = true)
    (htu : Quiescent t u) : SucceedsIffUnfaulted s u := by
  obtain ⟨new, hresp, hok⟩ := hst
  obtain ⟨k, hk⟩ := htu.refusals
  refine ⟨new ++ List.replicate k ⟨.refused, false⟩, by rw [hk, hresp, List.append_assoc], ?_⟩
  rw [List.forall_mem_append, hok, htu.unit.faulted, hf]
  exact and_iff_left_of_imp nofun

/-- A command is answered OK iff it leaves the unit unfaulted. -/
theorem CommandOutcome.succeedsIffUnfaulted (ho : CommandOutcome s d t) (hf : s.faulted = false) :
    SucceedsIffUnfaulted s t := by
  cases ho with
  | refused hf' => exact nomatch hf.symm.trans hf'
  | raised => exact succeedsIffUnfaulted_of_answer rfl ⟨nofun, nofun⟩
  | unadmitted => exact succeedsIffUnfaulted_of_answer rfl ⟨nofun, nofun⟩
  | written => exact succeedsIffUnfaulted_of_answer rfl ⟨fun _ => hf, fun _ => rfl⟩
  | tested => exact succeedsIffUnfaulted_of_answer rfl ⟨fun _ => hf, fun _ => rfl⟩
  | stored => exact succeedsIffUnfaulted_of_answer rfl ⟨fun _ => hf, fun _ => rfl⟩

theorem step_succeedsIffUnfaulted (hf : s.faulted = false) (hno : ∀ a ∈ s.inbox, a.isReset = false)
    (h : step s = .next t) : SucceedsIffUnfaulted s t ∧ t.inbox ⊆ s.inbox := by
  cases step_outcome h with
  | idle => exact ⟨succeedsIffUnfaulted_of_silent rfl hf, List.Subset.refl _⟩
  | reset hi => exact nomatch hno .reset (hi ▸ List.mem_cons_self)
  | interrupted hi => exact nomatch hno (.resetDuring _) (hi ▸ List.mem_cons_self)
  | hostWrite hi => exact ⟨succeedsIffUnfaulted_of_silent rfl hf, hi ▸ List.subset_cons_self _ _⟩
  | command hi ho =>
    obtain ⟨r, ha, -⟩ := ho.answers
    exact ⟨ho.succeedsIffUnfaulted hf, hi ▸ ha.inbox ▸ List.subset_cons_self _ _⟩

theorem run_succeedsIffUnfaulted (hf : s.faulted = false) (hno : ∀ a ∈ s.inbox, a.isReset = false)
    (h : Host.Core.run core n s = .next t) : SucceedsIffUnfaulted s t := by
  induction n generalizing s with
  | zero =>
    obtain rfl : s = t := Host.Outcome.next.inj h
    exact succeedsIffUnfaulted_of_silent rfl hf
  | succ n ih =>
    obtain ⟨u, hstep, -⟩ := exists_step_outcome s
    obtain ⟨hsu, hsub⟩ := step_succeedsIffUnfaulted hf hno hstep
    have hno' : ∀ a ∈ u.inbox, a.isReset = false := fun a ha => hno a (hsub ha)
    have hrun : Host.Core.run core n u = .next t := (run_succ_of_step core hstep).symm.trans h
    rcases Bool.eq_false_or_eq_true u.faulted with hfu | hfu
    · exact hsu.trans_quiescent hfu (run_quiescent hfu hno' hrun)
    · exact hsu.trans hfu (ih hfu hno' hrun)

/-- Settles O9, by induction on the number of steps: until the first fault every response is OK, and from it on the unit
stays faulted. -/
theorem runSucceedsIffUnfaultedAtTheEnd : Obligations.RunSucceedsIffUnfaultedAtTheEnd := by
  intro s t new hf hno h hresp
  obtain ⟨new', hresp', hok⟩ := run_succeedsIffUnfaulted hf hno h
  obtain rfl : new = new' := List.append_cancel_left (hresp.symm.trans hresp')
  exact hok

end Sys2Proof.Machine
end
